-- ==== Sys2Proof/Word.lean ====
section
/-! DEFINITION. The machine's words: the widths the spec gives its registers and ports (10_state.md R21, R30). -/

namespace Sys2Proof

/-- A 40-bit frame value: what `acc` and `frame` hold (R22, R23; `FRAME_WIDTH` = 40, R6). -/
abbrev FrameWord := BitVec 40

/-- A count of microseconds: `now`, `t_start` and the duration codes, `NOW_WIDTH` = 32 bits wide (R6, R24; decision D2).
An instance with a narrower counter uses the low bits (`Params.nowWidth`). -/
abbrev Micros := BitVec 32

/-- The 6-bit bit counter `bitcnt` (R27). -/
abbrev BitCount := BitVec 6

end Sys2Proof
end

