-- ==== Sys2Proof/Config.lean ====
section
/-! DEFINITION. What one instance of the block is configured with (00_scope.md R6), and the free values: the
samples of the input ports that nobody has put in front of the block (10_state.md R20). -/

namespace Sys2Proof

/-- The numeric parameters of R6 as one record, durations in microseconds. A block is configured with one record for its
life (R61; `State.cfg`). -/
structure Params where
  /-- `N_BITS`: bits per frame, iterations of the bit loop. -/
  nBits : Nat
  /-- `FRAME_WIDTH`: the width of `acc` and `frame`. -/
  frameWidth : Nat
  /-- `NOW_WIDTH` (`W`): the width of `now` and `t_start`. -/
  nowWidth : Nat
  /-- `T_START_LOW`: how long the block holds the line low. -/
  tStartLow : Nat
  /-- `ACK_P1_FAIL_AT`: smallest elapsed value that fails `ACK_WAIT_LOW`. -/
  ackP1FailAt : Nat
  /-- `ACK_P2_FAIL_AT`: smallest elapsed value that fails `ACK_LOW`. -/
  ackP2FailAt : Nat
  /-- `ACK_P3_FAIL_AT`: smallest elapsed value that fails `ACK_HIGH`. -/
  ackP3FailAt : Nat
  /-- `BIT_LOW_FAIL_AT`: smallest elapsed value that fails `BIT_LOW`. -/
  bitLowFailAt : Nat
  /-- `SYM0_MIN`. -/
  sym0Min : Nat
  /-- `SYM0_MAX`. -/
  sym0Max : Nat
  /-- `SYM1_MIN`. -/
  sym1Min : Nat
  /-- `SYM1_MAX`. -/
  sym1Max : Nat
  /-- `BIT_HIGH_MAX`, the OPEN parameter of decision D5. -/
  bitHighMax : Option Nat
  deriving DecidableEq, Repr

/-- The constraints R6 puts on the parameters, and those the widths of the model put on them (log 5): the frame has the
40 bits of the source and the loop fills it; `W` is at least 12, and at most the 32 of `Micros`; `T_START_LOW` ≥ 1000 and
representable in `W` bits; a bound `b` of the high phase lies above `SYM1_MAX`. -/
abbrev Params.Admissible (p : Params) : Prop :=
  p.frameWidth = 40 ∧ p.nBits = p.frameWidth ∧ 12 ≤ p.nowWidth ∧ p.nowWidth ≤ 32 ∧
    1000 ≤ p.tStartLow ∧ p.tStartLow < 2 ^ p.nowWidth ∧ ∀ b ∈ p.bitHighMax, p.sym1Max < b

/-- The values of R6: "this hardware as documented", `BIT_HIGH_MAX` = `none` (decision D5; log 4). -/
def Config.params : Params where
  nBits := 40
  frameWidth := 40
  nowWidth := 32
  tStartLow := 2000
  ackP1FailAt := 40
  ackP2FailAt := 100
  ackP3FailAt := 100
  bitLowFailAt := 66
  sym0Min := 20
  sym0Max := 49
  sym1Min := 50
  sym1Max := 100
  bitHighMax := none

/-- FREE VALUE (log 1): what `rst` carries in the `n`-th step if no sample was presented for it. -/
opaque Config.freeRst : Nat → Bool

/-- FREE VALUE (log 1): what `cmd` carries in the `n`-th step if no sample was presented for it. -/
opaque Config.freeCmd : Nat → BitVec 2

/-- FREE VALUE (log 1): the code on `unit` in the `n`-th step if no sample was presented for it. -/
opaque Config.freeUnit : Nat → BitVec 1

/-- FREE VALUE (log 1): the code on `line_in` in the `n`-th step if no sample was presented for it. -/
opaque Config.freeLine : Nat → BitVec 1

/-- FREE VALUE (log 1): what `now` reads in the `n`-th step if no sample was presented for it. -/
opaque Config.freeNow : Nat → Micros

end Sys2Proof
end

