-- ==== Sys2Proof/Syntax.lean ====
section
/-! DEFINITION. The names of the spec: levels, directions, units, phases, error kinds, the places a code can stand
on, and the operations, one constructor of `Instr` for each row of spec/opcode_table.json. -/

namespace Sys2Proof

/-- The level of the line (30_encoding.md R76, format `LEVEL`). -/
inductive Level where
  | low
  | high
  deriving DecidableEq, Repr

/-- The direction of the line (R76, format `DIR`). -/
inductive Dir where
  | input
  | output
  deriving DecidableEq, Repr

/-- Which temperature `temp_out` shows (R76, format `UNIT`). -/
inductive TempUnit where
  | celsius
  | fahrenheit
  deriving DecidableEq, Repr

/-- The eight values of the `phase` register (10_state.md R26, 30_encoding.md R74). -/
inductive Phase where
  | idle
  | startLow
  | ackWaitLow
  | ackLow
  | ackHigh
  | bitLow
  | bitHigh
  | validate
  deriving DecidableEq, Repr

/-- The five values of the `err` latch (10_state.md R25, 30_encoding.md R75). Codes 5 to 7 are never held, so the
latch is a five-valued enumeration (R78 (c)). -/
inductive ErrKind where
  | none
  | pastReadIntervalLimit
  | readLengthInvalid
  | checksumInvalid
  | unacknowledgedTransmission
  deriving DecidableEq, Repr

/-- What an accessor reads: the output ports of 10_state.md R32, and the two field functions without a port of their
own (43_reading_model.md R151). -/
inductive ReadPort where
  | errOut
  | frameOut
  | humRaw
  | tempRawCkRaw
  | tempSignMag
  | humOut
  | tempOut
  deriving DecidableEq, Repr

/-- Where a code stands. The formats of R70, R71 share their codes, so a code means an operation only together with
the port, the register or the wire it stands on. -/
inductive Place where
  /-- The `rst` pin, format `RST`. -/
  | rst
  /-- The `cmd` port in a step whose `phase` is IDLE, format `CMD`. -/
  | cmd
  /-- The `cmd` port while `busy` = 1 (R175). -/
  | cmdBusy
  /-- The `phase` register, format `PHASE`. -/
  | phase
  /-- The `err` register, format `ERR`. -/
  | err
  /-- A frame on the wire, format `FRAME`. -/
  | frame
  /-- A recorded high-phase duration, format `DUR`. -/
  | dur
  /-- `line_in`, `line_drv`, format `LEVEL`. -/
  | level
  /-- `line_dir`, format `DIR`. -/
  | dir
  /-- `unit`, format `UNIT`. -/
  | unit
  /-- An output read by the host; for `temp_out` the code is that of `unit`, elsewhere there is no code. -/
  | port (p : ReadPort)
  deriving DecidableEq, Repr

/-- A code and the place it stands on; bit 0 is the least significant (R7). -/
structure CodeWord where
  place : Place
  bits : Nat
  deriving DecidableEq, Repr

/-- The operations of the block, one constructor for each row of spec/opcode_table.json, in the table's order. -/
inductive Instr where
  /-- NOP, R171. -/
  | nop
  /-- READ, R172. -/
  | read
  /-- CLRERR, R173. -/
  | clrerr
  /-- CMD_RESERVED, `cmd` = 11, R176. -/
  | cmdReserved
  /-- CMD_IGNORED, any `cmd` while `busy` = 1, R175. -/
  | cmdIgnored (cmd : BitVec 2)
  /-- RESET, R174. -/
  | reset
  /-- STEP_IDLE, R170. -/
  | stepIdle
  /-- STEP_START_LOW, R101. -/
  | stepStartLow
  /-- STEP_ACK_WAIT_LOW, R102. -/
  | stepAckWaitLow
  /-- STEP_ACK_LOW, R103. -/
  | stepAckLow
  /-- STEP_ACK_HIGH, R104. -/
  | stepAckHigh
  /-- STEP_BIT_LOW, R120. -/
  | stepBitLow
  /-- STEP_BIT_HIGH, R121. -/
  | stepBitHigh
  /-- STEP_VALIDATE, R140. -/
  | stepValidate
  /-- ERR_NONE, R200. -/
  | errNone
  /-- ERR_PAST_READ_INTERVAL_LIMIT, R201. -/
  | errPastReadIntervalLimit
  /-- ERR_READ_LENGTH_INVALID, R202. -/
  | errReadLengthInvalid
  /-- ERR_CHECKSUM_INVALID, R203. -/
  | errChecksumInvalid
  /-- ERR_UNACKNOWLEDGED_TRANSMISSION, R204. -/
  | errUnacknowledgedTransmission
  /-- ERR_RESERVED, the codes 5 to 7, R78 (c). -/
  | errReserved (code : BitVec 3)
  /-- FRAME, a raw frame as it comes over the wire, R70. -/
  | frame (f : FrameWord)
  /-- GETERR, R158. -/
  | geterr
  /-- GETFRAME, R32. -/
  | getframe
  /-- HUMRAW, R150. -/
  | humraw
  /-- TEMPRAW_CKRAW, R151. -/
  | temprawCkraw
  /-- TEMPSIGN_MAG, R152. -/
  | tempsignMag
  /-- GETHUM, R154. -/
  | gethum
  /-- GETTEMP_C, R155. -/
  | gettempC
  /-- GETTEMP_F, R156. -/
  | gettempF
  /-- DUR_SHORT, a recorded duration below both windows, R122. -/
  | durShort (d : Micros)
  /-- SYM0, a recorded duration in the window of symbol 0, R122. -/
  | sym0 (d : Micros)
  /-- SYM1, a recorded duration in the window of symbol 1, R122. -/
  | sym1 (d : Micros)
  /-- DUR_LONG, a recorded duration above both windows, R122. -/
  | durLong (d : Micros)
  /-- LOW, R76. -/
  | low
  /-- HIGH, R76. -/
  | high
  /-- INPUT, R76. -/
  | input
  /-- OUTPUT, R76. -/
  | output
  /-- CELSIUS, R76. -/
  | celsius
  /-- FAHRENHEIT, R76. -/
  | fahrenheit
  deriving DecidableEq, Repr

end Sys2Proof
end

