-- ==== Sys2Proof/WellFormed.lean ====
section
/-! DEFINITION. Which terms of `Instr` are operations of the block: the operand lies in its row's range. -/

namespace Sys2Proof

/-- An operand is in the range its row gives it: the reserved error codes are 5 to 7 (30_encoding.md R75), and the
four duration classes are the ranges of R77, taken from the windows of R6. Every other operand may be any value. -/
def Instr.wellFormed : Instr → Bool
  | .errReserved code => decide (5 ≤ code.toNat)
  | .durShort d => decide (d.toNat < Config.params.sym0Min)
  | .sym0 d => decide (Config.params.sym0Min ≤ d.toNat ∧ d.toNat ≤ Config.params.sym0Max)
  | .sym1 d => decide (Config.params.sym1Min ≤ d.toNat ∧ d.toNat ≤ Config.params.sym1Max)
  | .durLong d => decide (Config.params.sym1Max < d.toNat)
  | .nop | .read | .clrerr | .cmdReserved | .cmdIgnored _ | .reset => true
  | .stepIdle | .stepStartLow | .stepAckWaitLow | .stepAckLow | .stepAckHigh => true
  | .stepBitLow | .stepBitHigh | .stepValidate => true
  | .errNone | .errPastReadIntervalLimit | .errReadLengthInvalid => true
  | .errChecksumInvalid | .errUnacknowledgedTransmission => true
  | .frame _ => true
  | .geterr | .getframe | .humraw | .temprawCkraw | .tempsignMag => true
  | .gethum | .gettempC | .gettempF => true
  | .low | .high | .input | .output | .celsius | .fahrenheit => true

end Sys2Proof
end

