-- ==== Sys2Proof/Decode.lean ====
section
/-! DEFINITION. The encodings of 30_encoding.md: the numeric codes of R73 to R76, the decoder of a code standing on
its place, the encoder, and the table's bare words. -/

namespace Sys2Proof

/-- `cmd` = 00 (R73). -/
def cmdNop : BitVec 2 := 0b00#2

/-- `cmd` = 01 (R73). -/
def cmdRead : BitVec 2 := 0b01#2

/-- `cmd` = 10 (R73). -/
def cmdClrerr : BitVec 2 := 0b10#2

/-- `cmd` = 11, reserved (R73). -/
def cmdReserved : BitVec 2 := 0b11#2

/-- The `PHASE` codes (R74). -/
def phaseCode : Phase → BitVec 3
  | .idle => 0b000#3
  | .startLow => 0b001#3
  | .ackWaitLow => 0b010#3
  | .ackLow => 0b011#3
  | .ackHigh => 0b100#3
  | .bitLow => 0b101#3
  | .bitHigh => 0b110#3
  | .validate => 0b111#3

/-- The phase a code names: all eight codes are used (R74). -/
def phaseOfCode (c : BitVec 3) : Phase :=
  match c.toNat with
  | 0 => .idle
  | 1 => .startLow
  | 2 => .ackWaitLow
  | 3 => .ackLow
  | 4 => .ackHigh
  | 5 => .bitLow
  | 6 => .bitHigh
  | _ => .validate

/-- The `ERR` codes (R75). -/
def errCode : ErrKind → BitVec 3
  | .none => 0b000#3
  | .pastReadIntervalLimit => 0b001#3
  | .readLengthInvalid => 0b010#3
  | .checksumInvalid => 0b011#3
  | .unacknowledgedTransmission => 0b100#3

/-- The `LEVEL` codes (R76). -/
def levelCode : Level → BitVec 1
  | .low => 0b0#1
  | .high => 0b1#1

/-- The level a code names (R76). -/
def levelOfCode (c : BitVec 1) : Level := if c = 0b0#1 then .low else .high

/-- The `DIR` codes (R76). -/
def dirCode : Dir → BitVec 1
  | .input => 0b0#1
  | .output => 0b1#1

/-- The `UNIT` codes (R76). -/
def unitCode : TempUnit → BitVec 1
  | .celsius => 0b0#1
  | .fahrenheit => 0b1#1

/-- The unit a code names (R76). -/
def unitOfCode (c : BitVec 1) : TempUnit := if c = 0b0#1 then .celsius else .fahrenheit

/-- How many bits the code on a place has (R70, R71). An accessor has no code of its own; `temp_out` is read with the
one bit of `unit`. -/
def placeWidth : Place → Nat
  | .rst => 1
  | .cmd => 2
  | .cmdBusy => 2
  | .phase => 3
  | .err => 3
  | .frame => 40
  | .dur => 32
  | .level => 1
  | .dir => 1
  | .unit => 1
  | .port .tempOut => 1
  | .port _ => 0

/-- Why a code is no operation. -/
inductive DecodeError where
  /-- The number does not fit the place's width. Safe: there is no such code (R71). -/
  | tooWide (place : Place) (bits : Nat)
  /-- `rst` = 0: the pin is not active and selects nothing (R76). Safe: the block is then in its phase's step. -/
  | resetInactive
  deriving DecidableEq, Repr

/-- What the decoder answers. -/
inductive Decoded where
  | instr (i : Instr)
  | rejected (e : DecodeError)
  deriving DecidableEq, Repr

/-- The command a `cmd` code is (R73). -/
def decodeCmd (bits : Nat) : Instr :=
  match bits with
  | 0 => .nop
  | 1 => .read
  | 2 => .clrerr
  | _ => .cmdReserved

/-- The phase step a `phase` value selects (R74). -/
def decodePhase (bits : Nat) : Instr :=
  match bits with
  | 0 => .stepIdle
  | 1 => .stepStartLow
  | 2 => .stepAckWaitLow
  | 3 => .stepAckLow
  | 4 => .stepAckHigh
  | 5 => .stepBitLow
  | 6 => .stepBitHigh
  | _ => .stepValidate

/-- What an `err` code stands for (R75). -/
def decodeErr (bits : Nat) : Instr :=
  match bits with
  | 0 => .errNone
  | 1 => .errPastReadIntervalLimit
  | 2 => .errReadLengthInvalid
  | 3 => .errChecksumInvalid
  | 4 => .errUnacknowledgedTransmission
  | n => .errReserved (BitVec.ofNat 3 n)

/-- The class of a recorded duration (R77): four ranges that partition all `W`-bit values. -/
def decodeDur (d : Micros) : Instr :=
  if d.toNat < Config.params.sym0Min then .durShort d
  else if d.toNat ≤ Config.params.sym0Max then .sym0 d
  else if d.toNat ≤ Config.params.sym1Max then .sym1 d
  else .durLong d

/-- The accessor that reads a port (R79); `bits` is the code on `unit` for `temp_out`. -/
def decodePort (p : ReadPort) (bits : Nat) : Instr :=
  match p with
  | .errOut => .geterr
  | .frameOut => .getframe
  | .humRaw => .humraw
  | .tempRawCkRaw => .temprawCkraw
  | .tempSignMag => .tempsignMag
  | .humOut => .gethum
  | .tempOut => if bits = 0 then .gettempC else .gettempF

/-- The operation a code that fits its place stands for. -/
def decodeFitting (place : Place) (bits : Nat) : Decoded :=
  match place with
  | .rst => if bits = 1 then .instr .reset else .rejected .resetInactive
  | .cmd => .instr (decodeCmd bits)
  | .cmdBusy => .instr (.cmdIgnored (BitVec.ofNat 2 bits))
  | .phase => .instr (decodePhase bits)
  | .err => .instr (decodeErr bits)
  | .frame => .instr (.frame (BitVec.ofNat 40 bits))
  | .dur => .instr (decodeDur (BitVec.ofNat 32 bits))
  | .level => .instr (if bits = 0 then .low else .high)
  | .dir => .instr (if bits = 0 then .input else .output)
  | .unit => .instr (if bits = 0 then .celsius else .fahrenheit)
  | .port p => .instr (decodePort p bits)

/-- The decoder: total on every place and every number, rejecting by name (R70 to R78). -/
def decode (w : CodeWord) : Decoded :=
  if w.bits < 2 ^ placeWidth w.place then decodeFitting w.place w.bits
  else .rejected (.tooWide w.place w.bits)

/-- The encoder: the code of an operation and the place it stands on, from the tables of R73 to R77 and R79. -/
def encode : Instr → CodeWord
  | .nop => ⟨.cmd, 0b00⟩
  | .read => ⟨.cmd, 0b01⟩
  | .clrerr => ⟨.cmd, 0b10⟩
  | .cmdReserved => ⟨.cmd, 0b11⟩
  | .cmdIgnored c => ⟨.cmdBusy, c.toNat⟩
  | .reset => ⟨.rst, 0b1⟩
  | .stepIdle => ⟨.phase, 0b000⟩
  | .stepStartLow => ⟨.phase, 0b001⟩
  | .stepAckWaitLow => ⟨.phase, 0b010⟩
  | .stepAckLow => ⟨.phase, 0b011⟩
  | .stepAckHigh => ⟨.phase, 0b100⟩
  | .stepBitLow => ⟨.phase, 0b101⟩
  | .stepBitHigh => ⟨.phase, 0b110⟩
  | .stepValidate => ⟨.phase, 0b111⟩
  | .errNone => ⟨.err, 0b000⟩
  | .errPastReadIntervalLimit => ⟨.err, 0b001⟩
  | .errReadLengthInvalid => ⟨.err, 0b010⟩
  | .errChecksumInvalid => ⟨.err, 0b011⟩
  | .errUnacknowledgedTransmission => ⟨.err, 0b100⟩
  | .errReserved code => ⟨.err, code.toNat⟩
  | .frame f => ⟨.frame, f.toNat⟩
  | .geterr => ⟨.port .errOut, 0⟩
  | .getframe => ⟨.port .frameOut, 0⟩
  | .humraw => ⟨.port .humRaw, 0⟩
  | .temprawCkraw => ⟨.port .tempRawCkRaw, 0⟩
  | .tempsignMag => ⟨.port .tempSignMag, 0⟩
  | .gethum => ⟨.port .humOut, 0⟩
  | .gettempC => ⟨.port .tempOut, 0⟩
  | .gettempF => ⟨.port .tempOut, 1⟩
  | .durShort d => ⟨.dur, d.toNat⟩
  | .sym0 d => ⟨.dur, d.toNat⟩
  | .sym1 d => ⟨.dur, d.toNat⟩
  | .durLong d => ⟨.dur, d.toNat⟩
  | .low => ⟨.level, 0b0⟩
  | .high => ⟨.level, 0b1⟩
  | .input => ⟨.dir, 0b0⟩
  | .output => ⟨.dir, 0b1⟩
  | .celsius => ⟨.unit, 0b0⟩
  | .fahrenheit => ⟨.unit, 0b1⟩

/-- The place a bare word of spec/opcode_table.json is read on, by its size alone (log 3): one byte is a `phase`
value, the code the block itself fetches its next operation by (10_state.md R28); two to four bytes are a duration;
five bytes are a frame. -/
def tablePlace (nbits : Nat) : Option Place :=
  match nbits with
  | 8 => some .phase
  | 16 => some .dur
  | 24 => some .dur
  | 32 => some .dur
  | 40 => some .frame
  | _ => none

/-- The operation the decoder reads from a bare word of the table. -/
def decodeTableWord (nbits w : Nat) : Option Instr :=
  match tablePlace nbits with
  | none => none
  | some place =>
    match decode ⟨place, w⟩ with
    | .instr i => some i
    | .rejected _ => none

end Sys2Proof
end

