-- ==== Sys2Proof/Machine/State.lean ====
section
/-! DEFINITION. The state of the block as plain data: the six registers of 10_state.md R21, and four fields of the
model's own (the parameters the block was configured with, the samples put in front of the input ports, the step counter
the free samples hang on, and what the output ports last showed). -/

namespace Sys2Proof.Machine

/-- One sample of the input ports (10_state.md R30): what one step reads. -/
structure Inputs where
  /-- `rst`, 1 bit: reset the block. -/
  rst : Bool
  /-- `cmd`, 2 bits: the command code, looked at only in IDLE. -/
  cmd : BitVec 2
  /-- `unit`, 1 bit: which temperature `temp_out` shows. -/
  unit : TempUnit
  /-- `line_in`, 1 bit: the level of the line. -/
  lineIn : Level
  /-- `now`, `W` bits: the microsecond counter. -/
  now : Micros
  deriving DecidableEq, Repr

/-- What the outputs show: the ports of 10_state.md R31 and R32, and the two functions of 43_reading_model.md R151
that have no port of their own. -/
structure Outputs where
  busy : Bool
  errOut : BitVec 3
  frameOut : BitVec 40
  humRaw : BitVec 16
  tempSign : BitVec 1
  tempMag : BitVec 15
  humOut : BitVec 16
  tempOut : BitVec 18
  lineDir : Dir
  lineDrv : Level
  tempRaw : BitVec 16
  ckRaw : BitVec 8
  deriving DecidableEq, Repr

/-- The state. The first six fields are the spec's registers, "exactly these six" (R21); the last four are the
model's own (log 1, log 2, log 4). -/
structure State where
  /-- The last valid frame (R22). -/
  frame : FrameWord
  /-- The raw frame being assembled, hidden (R23). -/
  acc : FrameWord
  /-- `t_start`: the value of `now` when the current timed wait began, hidden (R24). -/
  tStart : Micros
  /-- The sticky error latch (R25). -/
  err : ErrKind
  /-- Which phase of the attempt the block is in (R26). -/
  phase : Phase
  /-- The number of bits already shifted into `acc`, hidden (R27). -/
  bitcnt : BitCount
  /-- The parameters of R6 this block is configured with: no register (R35 (b)), written by nothing, reset included
  (R61, U14). -/
  cfg : Params
  /-- The samples put in front of the input ports, the next step's first (the trace of 00_scope.md R10). Past its end
  the step samples free values. -/
  inputs : List Inputs
  /-- How many steps have been taken: what the free samples are applied to. -/
  tick : Nat
  /-- What the outputs showed in the last step, or in the last read of an accessor. -/
  out : Outputs
  deriving DecidableEq, Repr

/-- Reasons to halt: there are none. "No fault is escalated beyond the ErrorState latch; there are no fatal conditions
that halt the whole system" (60_exceptions.md R205). The four protocol faults are values of `err` and end in a next
state. Safe: nothing raises it. -/
inductive Fault where
  deriving DecidableEq, Repr

/-- Reasons for which the model gives an operation no next state. -/
inductive Refusal where
  /-- An operation without a meaning yet. Raised by a refused arm of `exec`; no arm is refused. Safe. -/
  | notModelled (mnemonic : String)
  /-- The code the block fetches is no operation. Raised by `step`; never taken, since every fetched code decodes
  (Laws/Step.lean). Safe. -/
  | undecoded (e : DecodeError)
  deriving DecidableEq, Repr

/-- The outputs after reset as R36 lists them (`unit` = 0). -/
def Outputs.afterReset : Outputs where
  busy := false
  errOut := 0#3
  frameOut := 0#40
  humRaw := 0#16
  tempSign := 0#1
  tempMag := 0#15
  humOut := 0#16
  tempOut := 0#18
  lineDir := .input
  lineDrv := .high
  tempRaw := 0#16
  ckRaw := 0#8

/-- The block right after reset (10_state.md R36, 70_reset_and_hazards.md R230): the six registers hold 0, the outputs
are R36's, no sample has been put in front of it (log 1), and the parameters are the documented ones (log 4). -/
def State.reset : State where
  frame := 0#40
  acc := 0#40
  tStart := 0#32
  err := .none
  phase := .idle
  bitcnt := 0#6
  cfg := Config.params
  inputs := []
  tick := 0
  out := Outputs.afterReset

end Sys2Proof.Machine
end

