-- ==== Sys2Proof/Machine/Operands.lean ====
section
/-! DEFINITION. What a step reads: the sample of the input ports, the elapsed time, the class of a duration, the fields
of a frame and the conversions of the reading model. -/

namespace Sys2Proof.Machine

/-- The sample of the `n`-th step if none was put in front of the block: nothing constrains it (log 1) but the width of
`now` (R30). -/
def freeSample (p : Params) (n : Nat) : Inputs where
  rst := Config.freeRst n
  cmd := Config.freeCmd n
  unit := unitOfCode (Config.freeUnit n)
  lineIn := levelOfCode (Config.freeLine n)
  now := BitVec.ofNat 32 ((Config.freeNow n).toNat % 2 ^ p.nowWidth)

/-- The sample of the input ports that the step to come reads (R10, R30). -/
def sampleOf (s : State) : Inputs :=
  match s.inputs with
  | i :: _ => i
  | [] => freeSample s.cfg s.tick

/-- `elapsed = (now - t_start) mod 2^W`, as an unsigned integer, for `W` = `w` (00_scope.md R8). -/
def elapsed (w : Nat) (now tStart : Micros) : Nat := (now - tStart).toNat % 2 ^ w

/-- `e` of the step to come, as an unsigned integer: this step's sample of `now` against the `t_start` held at the
start of the step (R8, R9). -/
def elapsedOf (s : State) : Nat := elapsed s.cfg.nowWidth (sampleOf s).now s.tStart

/-- `Classify(d)` (41_bit_decoder.md R122): `some` of the symbol, or `none` for a fault. -/
def classify (p : Params) (d : Nat) : Option (BitVec 1) :=
  if p.sym0Min ≤ d ∧ d ≤ p.sym0Max then some 0#1
  else if p.sym1Min ≤ d ∧ d ≤ p.sym1Max then some 1#1
  else none

/-- `HumRaw(frame) = frame[39:24]` (43_reading_model.md R150). -/
def humRaw (f : FrameWord) : BitVec 16 := f.extractLsb' 24 16

/-- `TempRaw(frame) = frame[23:8]` (R151). -/
def tempRaw (f : FrameWord) : BitVec 16 := f.extractLsb' 8 16

/-- `CkRaw(frame) = frame[7:0]` (R151). -/
def ckRaw (f : FrameWord) : BitVec 8 := f.extractLsb' 0 8

/-- `TempSign(frame) = frame[23]` (R152). -/
def tempSign (f : FrameWord) : BitVec 1 := f.extractLsb' 23 1

/-- `TempMag(frame) = frame[22:8]` (R152). -/
def tempMag (f : FrameWord) : BitVec 15 := f.extractLsb' 8 15

/-- `TempTenthsExact(frame)` (R152): the temperature the field encodes, in tenths of a degree Celsius. -/
def tempTenthsExact (f : FrameWord) : Int :=
  if tempSign f = 1#1 then -((tempMag f).toNat : Int) else ((tempMag f).toNat : Int)

/-- `Hum(frame) = (HumRaw(frame) div 10) * 10` (R154), in tenths of a percent RH. -/
def hum (f : FrameWord) : Nat := (humRaw f).toNat / 10 * 10

/-- `c_whole` (R155): whole degrees of the magnitude, truncated. -/
def cWhole (f : FrameWord) : Nat := (tempMag f).toNat / 10

/-- `TempC(frame)` (R155), in tenths of a degree Celsius. -/
def tempC (f : FrameWord) : Int :=
  if tempSign f = 1#1 then -((cWhole f * 10 : Nat) : Int) else ((cWhole f * 10 : Nat) : Int)

/-- `TempF(frame)` (R156), in tenths of a degree Fahrenheit; the sign is applied to the finished number. -/
def tempF (f : FrameWord) : Int :=
  if tempSign f = 1#1 then -((cWhole f * 18 + 320 : Nat) : Int) else ((cWhole f * 18 + 320 : Nat) : Int)

/-- The value on `hum_out`, 16 bits unsigned (R154, R157). -/
def humOut (f : FrameWord) : BitVec 16 := BitVec.ofNat 16 (hum f)

/-- The value on `temp_out`, 18 bits signed two's complement, by `unit` (R157). -/
def tempOut (u : TempUnit) (f : FrameWord) : BitVec 18 :=
  match u with
  | .celsius => BitVec.ofInt 18 (tempC f)
  | .fahrenheit => BitVec.ofInt 18 (tempF f)

end Sys2Proof.Machine
end

