-- ==== Sys2Proof/Machine/Flags.lean ====
section
/-! DEFINITION. The flags of 10_state.md R29, the checksum test, the line-control outputs, and all output ports
together as functions of the registers held at the start of a step. -/

namespace Sys2Proof.Machine

/-- `busy` = 1 iff `phase` ≠ IDLE (R29 (b)). -/
def busy (s : State) : Bool := decide (s.phase ≠ .idle)

/-- The low byte of the sum of the four data bytes (42_frame_validator.md R141). -/
def byteSum (a : FrameWord) : BitVec 8 :=
  a.extractLsb' 32 8 + a.extractLsb' 24 8 + a.extractLsb' 16 8 + a.extractLsb' 8 8

/-- `ChecksumOk(a)` (R141). -/
def checksumOk (a : FrameWord) : Bool := byteSum a == a.extractLsb' 0 8

/-- `line_dir`: OUTPUT iff `phase` = START_LOW (R31). -/
def lineDir (ph : Phase) : Dir :=
  match ph with
  | .startLow => .output
  | .idle | .ackWaitLow | .ackLow | .ackHigh | .bitLow | .bitHigh | .validate => .input

/-- `line_drv`: LOW iff `phase` = START_LOW; elsewhere the immaterial HIGH (R31). -/
def lineDrv (ph : Phase) : Level :=
  match ph with
  | .startLow => .low
  | .idle | .ackWaitLow | .ackLow | .ackHigh | .bitLow | .bitHigh | .validate => .high

/-- All outputs as functions of the registers at the start of the step and, for `temp_out`, of `unit`
(R31, R32; 43_reading_model.md R153). -/
def ports (u : TempUnit) (s : State) : Outputs where
  busy := busy s
  errOut := errCode s.err
  frameOut := s.frame
  humRaw := humRaw s.frame
  tempSign := tempSign s.frame
  tempMag := tempMag s.frame
  humOut := humOut s.frame
  tempOut := tempOut u s.frame
  lineDir := lineDir s.phase
  lineDrv := lineDrv s.phase
  tempRaw := tempRaw s.frame
  ckRaw := ckRaw s.frame

end Sys2Proof.Machine
end

