-- ==== Sys2Proof/Machine/Ops.lean ====
section
/-! DEFINITION. The named operations: presenting a sample, taking a protocol fault (`raise`) and clearing the latch,
reset, the shift, the rules of the eight phases, and closing a step. The rules take the parameters of 00_scope.md R6
from the configuration of the block, `State.cfg`. -/

namespace Sys2Proof.Machine

/-- Put the sample of the step to come, changed by `f`, on the input ports. -/
def present (f : Inputs → Inputs) (s : State) : State :=
  { s with inputs := f (sampleOf s) :: s.inputs.tail }

/-- Change what the outputs show. -/
def showing (f : Outputs → Outputs) (s : State) : State := { s with out := f s.out }

/-- Close a step that began in `s` and leaves the registers of `t`: the outputs showed the registers of `s`
(R31, R32, 20_memory.md R58), and the step has used up its sample. -/
def finish (s t : State) : State :=
  { t with inputs := s.inputs.tail, tick := s.tick + 1, out := ports (sampleOf s).unit s }

/-- TAKING A PROTOCOL FAULT, `raise K`: `err <- K; phase <- IDLE`, and no other register (60_exceptions.md R205). -/
def raise (k : ErrKind) (s : State) : State := { s with err := k, phase := .idle }

/-- THE RETURN, clearing the latch: `err <- NONE` and nothing else (R209, 44_commands.md R173). -/
def clearErr (s : State) : State := { s with err := .none }

/-- The register writes of a reset (R174, R36). -/
def resetRegs (s : State) : State :=
  { s with frame := 0#40, acc := 0#40, tStart := 0#32, err := .none, phase := .idle, bitcnt := 0#6 }

/-- `READ` accepted in IDLE: `phase <- START_LOW; t_start <- now` (R172). -/
def startAttempt (s : State) : State := { s with phase := .startLow, tStart := (sampleOf s).now }

/-- Enter a timed phase: `phase <- P; t_start <- now` (R24). -/
def enter (ph : Phase) (s : State) : State := { s with phase := ph, tStart := (sampleOf s).now }

/-- Enter decoding: as `enter`, with `acc <- 0; bitcnt <- 0` (40_handshake.md R104). -/
def enterDecoding (s : State) : State :=
  { s with phase := .bitLow, tStart := (sampleOf s).now, acc := 0#40, bitcnt := 0#6 }

/-- `acc <- ((acc << 1) | s) mod 2^w`, for a frame of `w` bits (41_bit_decoder.md R123). -/
def shiftIn (w : Nat) (a : FrameWord) (b : BitVec 1) : FrameWord := BitVec.ofNat 40 ((2 * a.toNat + b.toNat) % 2 ^ w)

/-- A bit has been received: shift it in, count it, restart the timer; the `N_BITS`-th leads to VALIDATE, every earlier
one back to BIT_LOW (R121, R123, R124). -/
def endBit (b : BitVec 1) (s : State) : State :=
  { s with
    acc := shiftIn s.cfg.frameWidth s.acc b
    bitcnt := s.bitcnt + 1#6
    tStart := (sampleOf s).now
    phase := if s.bitcnt.toNat + 1 = s.cfg.nBits then .validate else .bitLow }

/-- The accumulator after the symbols of `f`, most significant first, were shifted into `a` (20_memory.md R52, R123). -/
def receive (p : Params) (f a : FrameWord) : FrameWord :=
  (List.range p.nBits).foldl (fun x i => shiftIn p.frameWidth x (f.extractLsb' (p.frameWidth - 1 - i) 1)) a

/-- A whole raw frame has been received: `acc` holds its symbols, `bitcnt` is `N_BITS`, VALIDATE comes next
(R124; log 8). -/
def receiveFrame (f : FrameWord) (s : State) : State :=
  { s with
    acc := receive s.cfg f s.acc
    bitcnt := BitVec.ofNat 6 s.cfg.nBits
    tStart := (sampleOf s).now
    phase := .validate }

/-- A bounded wait for a level: the deadline is tested before the line, and fails when `e` ≥ bound
(R105, R120, 60_exceptions.md R212 (3)). -/
def waitRule (failAt : Nat) (awaited : Level) (kind : ErrKind) (onEdge : State → State) (s : State) : State :=
  if failAt ≤ elapsedOf s then raise kind s
  else if (sampleOf s).lineIn = awaited then onEdge s
  else s

/-- IDLE: the command decode (R170, R171, R172, R173, R176). -/
def idleRule (s : State) : State :=
  if (sampleOf s).cmd = cmdRead then startAttempt s
  else if (sampleOf s).cmd = cmdClrerr then clearErr s
  else s

/-- START_LOW (R101). -/
def startLowRule (s : State) : State :=
  if s.cfg.tStartLow ≤ elapsedOf s then enter .ackWaitLow s else s

/-- ACK_WAIT_LOW (R102). -/
def ackWaitLowRule (s : State) : State :=
  waitRule s.cfg.ackP1FailAt .low .unacknowledgedTransmission (enter .ackLow) s

/-- ACK_LOW (R103). -/
def ackLowRule (s : State) : State :=
  waitRule s.cfg.ackP2FailAt .high .unacknowledgedTransmission (enter .ackHigh) s

/-- ACK_HIGH (R104). -/
def ackHighRule (s : State) : State :=
  waitRule s.cfg.ackP3FailAt .low .unacknowledgedTransmission enterDecoding s

/-- BIT_LOW (R120). -/
def bitLowRule (s : State) : State :=
  waitRule s.cfg.bitLowFailAt .high .pastReadIntervalLimit (enter .bitHigh) s

/-- The falling edge in BIT_HIGH with the recorded duration `e`: classify it (R121, R122). -/
def fallingEdge (s : State) : State :=
  match classify s.cfg (elapsedOf s) with
  | some b => endBit b s
  | none => raise .readLengthInvalid s

/-- The line still HIGH in BIT_HIGH: nothing, for ever if need be, unless the optional bound is configured and
reached (R121, R242; decision D5). -/
def stillHigh (s : State) : State :=
  match s.cfg.bitHighMax with
  | some b => if b ≤ elapsedOf s then raise .readLengthInvalid s else s
  | none => s

/-- BIT_HIGH: the level is examined first (R121, R212 (4)). -/
def bitHighRule (s : State) : State :=
  match (sampleOf s).lineIn with
  | .low => fallingEdge s
  | .high => stillHigh s

/-- VALIDATE: promote `acc` to `frame`, or raise (42_frame_validator.md R140, R142, R143). -/
def validateRule (s : State) : State :=
  if checksumOk s.acc = true then { s with frame := s.acc, phase := .idle }
  else raise .checksumInvalid s

/-- The rule that the phase held at the start of the step selects (30_encoding.md R74, R212 (2)). -/
def phaseRule (s : State) : State :=
  match s.phase with
  | .idle => idleRule s
  | .startLow => startLowRule s
  | .ackWaitLow => ackWaitLowRule s
  | .ackLow => ackLowRule s
  | .ackHigh => ackHighRule s
  | .bitLow => bitLowRule s
  | .bitHigh => bitHighRule s
  | .validate => validateRule s

/-- A step with the register writes of `rule`; `rst` = 1 does none of it and resets instead (R174, R212 (1)). -/
def stepWith (rule : State → State) (s : State) : Host.Outcome State Fault Refusal :=
  .next (finish s (if (sampleOf s).rst = true then resetRegs s else rule s))

/-- A step with no reset in it and the register writes of `rule`. -/
def stepOf (rule : State → State) (s : State) : Host.Outcome State Fault Refusal :=
  .next (finish s (rule s))

/-- A command presented for one step, with `rst` = 0: in IDLE its own rule, in any other phase the phase's
(R170, R175). -/
def command (code : BitVec 2) (effect : State → State) (s : State) : Host.Outcome State Fault Refusal :=
  stepOf (fun t => if t.phase = .idle then effect t else phaseRule t)
    (present (fun i => { i with rst := false, cmd := code }) s)

/-- One step of a trace line: `rst` = 0, `cmd` = NOP and the given level on `line_in` (30_encoding.md R80). -/
def lineStep (l : Level) (s : State) : Host.Outcome State Fault Refusal :=
  stepOf phaseRule
    (present (fun i => { i with rst := false, cmd := cmdNop, lineIn := l }) s)

/-- The read of an output: what is shown changes, the block does not (20_memory.md R56, 43_reading_model.md R153). -/
def readPort (f : Outputs → Outputs) (s : State) : Host.Outcome State Fault Refusal :=
  .next (showing f s)

end Sys2Proof.Machine
end

