-- ==== Sys2Proof/Machine/Codes.lean ====
section
/-! DEFINITION. The remaining codes as operations: a raw frame on the wire, the classes of a recorded duration, the
levels and directions of the line, the temperature units (30_encoding.md R70, R76, R77). The reading of these rows as
operations is the model's: log 8, 9, 10 and 15. -/

namespace Sys2Proof.Machine

/-- FRAME (R70, R52, R124): the forty symbols of `f` have been received, bit 39 first; log 8. -/
def execFrame (f : FrameWord) (s : State) : Host.Outcome State Fault Refusal := stepWith (receiveFrame f) s

/-- DUR_SHORT (R77, R122): no symbol, `READ_LENGTH_INVALID`. The duration itself is not recorded anywhere (R200). -/
def execDurShort (_d : Micros) (s : State) : Host.Outcome State Fault Refusal :=
  stepWith (raise .readLengthInvalid) s

/-- SYM0 (R77, R122 to R124): symbol 0 is received. -/
def execSym0 (_d : Micros) (s : State) : Host.Outcome State Fault Refusal := stepWith (endBit 0#1) s

/-- SYM1 (R77, R122 to R124): symbol 1 is received. -/
def execSym1 (_d : Micros) (s : State) : Host.Outcome State Fault Refusal := stepWith (endBit 1#1) s

/-- DUR_LONG (R77, R122): no symbol, `READ_LENGTH_INVALID`. -/
def execDurLong (_d : Micros) (s : State) : Host.Outcome State Fault Refusal :=
  stepWith (raise .readLengthInvalid) s

/-- LOW (R76, R80): one step with `line_in` = LOW, the trace line `L:1`; log 9. -/
def execLow (s : State) : Host.Outcome State Fault Refusal := lineStep .low s

/-- HIGH (R76, R80): one step with `line_in` = HIGH, the trace line `H:1`; log 9. -/
def execHigh (s : State) : Host.Outcome State Fault Refusal := lineStep .high s

/-- INPUT (R76, R216): the code 0 on `line_dir`; log 10. -/
def execInput (s : State) : Host.Outcome State Fault Refusal :=
  readPort (fun o => { o with lineDir := .input }) s

/-- OUTPUT (R76, R216): the code 1 on `line_dir`; log 10. -/
def execOutput (s : State) : Host.Outcome State Fault Refusal :=
  readPort (fun o => { o with lineDir := .output }) s

/-- CELSIUS (R76, R157): the code 0 on `unit` for the step to come, and `temp_out` follows it. -/
def execCelsius (s : State) : Host.Outcome State Fault Refusal :=
  readPort (fun o => { o with tempOut := tempOut .celsius s.frame })
    (present (fun i => { i with unit := .celsius }) s)

/-- FAHRENHEIT (R76, R157): the code 1 on `unit` for the step to come, and `temp_out` follows it. -/
def execFahrenheit (s : State) : Host.Outcome State Fault Refusal :=
  readPort (fun o => { o with tempOut := tempOut .fahrenheit s.frame })
    (present (fun i => { i with unit := .fahrenheit }) s)

end Sys2Proof.Machine
end

