-- ==== Sys2Proof/Machine/Commands.lean ====
section
/-! DEFINITION. The host's operations: RESET and the codes of `cmd` (44_commands.md). -/

namespace Sys2Proof.Machine

/-- NOP (R171): no register changes. -/
def execNop (s : State) : Host.Outcome State Fault Refusal := command cmdNop (fun t => t) s

/-- READ (R172): `phase <- START_LOW; t_start <- now`; `err` and `frame` are kept. -/
def execRead (s : State) : Host.Outcome State Fault Refusal := command cmdRead startAttempt s

/-- CLRERR (R173): `err <- NONE`. -/
def execClrerr (s : State) : Host.Outcome State Fault Refusal := command cmdClrerr clearErr s

/-- CMD_RESERVED (R176): `cmd` = 11 executes as NOP. -/
def execCmdReserved (s : State) : Host.Outcome State Fault Refusal := command cmdReserved (fun t => t) s

/-- CMD_IGNORED (R175): while `busy` = 1 the step is the phase's own and the command is lost. In IDLE, where no
command is ignored, the code is decoded as R170 says. -/
def execCmdIgnored (cmd : BitVec 2) (s : State) : Host.Outcome State Fault Refusal :=
  command cmd idleRule s

/-- RESET (R174): all six registers, whatever phase and command. -/
def execReset (s : State) : Host.Outcome State Fault Refusal :=
  stepOf resetRegs (present (fun i => { i with rst := true }) s)

end Sys2Proof.Machine
end

