-- ==== Sys2Proof/Machine/Faults.lean ====
section
/-! DEFINITION. The codes of the error latch as operations: a step whose effect is to latch the code
(60_exceptions.md R200 to R205; log 7). When the block raises a fault is the phase step's matter. -/

namespace Sys2Proof.Machine

/-- ERR_NONE (R200, R209): the latch is cleared, nothing else is written. -/
def execErrNone (s : State) : Host.Outcome State Fault Refusal := stepWith clearErr s

/-- ERR_PAST_READ_INTERVAL_LIMIT (R201, R205). -/
def execErrPastReadIntervalLimit (s : State) : Host.Outcome State Fault Refusal :=
  stepWith (raise .pastReadIntervalLimit) s

/-- ERR_READ_LENGTH_INVALID (R202, R205). -/
def execErrReadLengthInvalid (s : State) : Host.Outcome State Fault Refusal :=
  stepWith (raise .readLengthInvalid) s

/-- ERR_CHECKSUM_INVALID (R203, R205). -/
def execErrChecksumInvalid (s : State) : Host.Outcome State Fault Refusal :=
  stepWith (raise .checksumInvalid) s

/-- ERR_UNACKNOWLEDGED_TRANSMISSION (R204, R205). -/
def execErrUnacknowledgedTransmission (s : State) : Host.Outcome State Fault Refusal :=
  stepWith (raise .unacknowledgedTransmission) s

/-- ERR_RESERVED (R78 (c), U9): the codes 5 to 7 are never written to the latch, so no register changes, whichever
code it is. -/
def execErrReserved (_code : BitVec 3) (s : State) : Host.Outcome State Fault Refusal := stepWith (fun t => t) s

end Sys2Proof.Machine
end

