-- ==== Sys2Proof/Machine/Phases.lean ====
section
/-! DEFINITION. The phase steps: what the block does in one step while `phase` holds a given value
(40_handshake.md, 41_bit_decoder.md, 42_frame_validator.md, 44_commands.md R170). In each, `rst` = 1 resets instead. -/

namespace Sys2Proof.Machine

/-- STEP_IDLE (R170): the command on `cmd`. -/
def execStepIdle (s : State) : Host.Outcome State Fault Refusal := stepWith idleRule s

/-- STEP_START_LOW (R101). -/
def execStepStartLow (s : State) : Host.Outcome State Fault Refusal := stepWith startLowRule s

/-- STEP_ACK_WAIT_LOW (R102). -/
def execStepAckWaitLow (s : State) : Host.Outcome State Fault Refusal := stepWith ackWaitLowRule s

/-- STEP_ACK_LOW (R103). -/
def execStepAckLow (s : State) : Host.Outcome State Fault Refusal := stepWith ackLowRule s

/-- STEP_ACK_HIGH (R104). -/
def execStepAckHigh (s : State) : Host.Outcome State Fault Refusal := stepWith ackHighRule s

/-- STEP_BIT_LOW (R120). -/
def execStepBitLow (s : State) : Host.Outcome State Fault Refusal := stepWith bitLowRule s

/-- STEP_BIT_HIGH (R121). -/
def execStepBitHigh (s : State) : Host.Outcome State Fault Refusal := stepWith bitHighRule s

/-- STEP_VALIDATE (R140). -/
def execStepValidate (s : State) : Host.Outcome State Fault Refusal := stepWith validateRule s

end Sys2Proof.Machine
end

