-- ==== Sys2Proof/Machine/Reading.lean ====
section
/-! DEFINITION. The accessors: reads of the outputs (43_reading_model.md). None of them changes the block. -/

namespace Sys2Proof.Machine

/-- GETERR (R158): `err_out = err`. -/
def execGeterr (s : State) : Host.Outcome State Fault Refusal :=
  readPort (fun o => { o with errOut := errCode s.err }) s

/-- GETFRAME (R32): `frame_out = frame`. -/
def execGetframe (s : State) : Host.Outcome State Fault Refusal :=
  readPort (fun o => { o with frameOut := s.frame }) s

/-- HUMRAW (R150). -/
def execHumraw (s : State) : Host.Outcome State Fault Refusal :=
  readPort (fun o => { o with humRaw := humRaw s.frame }) s

/-- TEMPRAW_CKRAW (R151). -/
def execTemprawCkraw (s : State) : Host.Outcome State Fault Refusal :=
  readPort (fun o => { o with tempRaw := tempRaw s.frame, ckRaw := ckRaw s.frame }) s

/-- TEMPSIGN_MAG (R152). -/
def execTempsignMag (s : State) : Host.Outcome State Fault Refusal :=
  readPort (fun o => { o with tempSign := tempSign s.frame, tempMag := tempMag s.frame }) s

/-- GETHUM (R154). -/
def execGethum (s : State) : Host.Outcome State Fault Refusal :=
  readPort (fun o => { o with humOut := humOut s.frame }) s

/-- GETTEMP_C (R155, R157): `temp_out` read with `unit` = 0. -/
def execGettempC (s : State) : Host.Outcome State Fault Refusal :=
  readPort (fun o => { o with tempOut := tempOut .celsius s.frame }) s

/-- GETTEMP_F (R156, R157): `temp_out` read with `unit` = 1. -/
def execGettempF (s : State) : Host.Outcome State Fault Refusal :=
  readPort (fun o => { o with tempOut := tempOut .fahrenheit s.frame }) s

end Sys2Proof.Machine
end

