-- ==== Sys2Proof/Machine/Dispatch.lean ====
section
/-! DEFINITION. The dispatch: one arm per row of spec/opcode_table.json. -/

namespace Sys2Proof.Machine

/-- What each operation does in a state. -/
def exec (i : Instr) (s : State) : Host.Outcome State Fault Refusal :=
  match i with
  | .nop => Sys2Proof.Machine.execNop s
  | .read => Sys2Proof.Machine.execRead s
  | .clrerr => Sys2Proof.Machine.execClrerr s
  | .cmdReserved => Sys2Proof.Machine.execCmdReserved s
  | .cmdIgnored cmd => Sys2Proof.Machine.execCmdIgnored cmd s
  | .reset => Sys2Proof.Machine.execReset s
  | .stepIdle => Sys2Proof.Machine.execStepIdle s
  | .stepStartLow => Sys2Proof.Machine.execStepStartLow s
  | .stepAckWaitLow => Sys2Proof.Machine.execStepAckWaitLow s
  | .stepAckLow => Sys2Proof.Machine.execStepAckLow s
  | .stepAckHigh => Sys2Proof.Machine.execStepAckHigh s
  | .stepBitLow => Sys2Proof.Machine.execStepBitLow s
  | .stepBitHigh => Sys2Proof.Machine.execStepBitHigh s
  | .stepValidate => Sys2Proof.Machine.execStepValidate s
  | .errNone => Sys2Proof.Machine.execErrNone s
  | .errPastReadIntervalLimit => Sys2Proof.Machine.execErrPastReadIntervalLimit s
  | .errReadLengthInvalid => Sys2Proof.Machine.execErrReadLengthInvalid s
  | .errChecksumInvalid => Sys2Proof.Machine.execErrChecksumInvalid s
  | .errUnacknowledgedTransmission => Sys2Proof.Machine.execErrUnacknowledgedTransmission s
  | .errReserved code => Sys2Proof.Machine.execErrReserved code s
  | .frame f => Sys2Proof.Machine.execFrame f s
  | .geterr => Sys2Proof.Machine.execGeterr s
  | .getframe => Sys2Proof.Machine.execGetframe s
  | .humraw => Sys2Proof.Machine.execHumraw s
  | .temprawCkraw => Sys2Proof.Machine.execTemprawCkraw s
  | .tempsignMag => Sys2Proof.Machine.execTempsignMag s
  | .gethum => Sys2Proof.Machine.execGethum s
  | .gettempC => Sys2Proof.Machine.execGettempC s
  | .gettempF => Sys2Proof.Machine.execGettempF s
  | .durShort d => Sys2Proof.Machine.execDurShort d s
  | .sym0 d => Sys2Proof.Machine.execSym0 d s
  | .sym1 d => Sys2Proof.Machine.execSym1 d s
  | .durLong d => Sys2Proof.Machine.execDurLong d s
  | .low => Sys2Proof.Machine.execLow s
  | .high => Sys2Proof.Machine.execHigh s
  | .input => Sys2Proof.Machine.execInput s
  | .output => Sys2Proof.Machine.execOutput s
  | .celsius => Sys2Proof.Machine.execCelsius s
  | .fahrenheit => Sys2Proof.Machine.execFahrenheit s

end Sys2Proof.Machine
end

