-- ==== Sys2Proof/Machine/Fetch.lean ====
section
/-! DEFINITION. How the block comes to its next operation, and how a bare word of the table is put where the next step
finds it. -/

namespace Sys2Proof.Machine

/-- The code that decides the step to come (60_exceptions.md R212): an active `rst`, else the value of the `phase`
register, the block's program counter (10_state.md R28). In IDLE the operation it selects decodes `cmd` (R170). -/
def fetchWord (s : State) : CodeWord :=
  if (sampleOf s).rst = true then ⟨.rst, 0b1⟩ else ⟨.phase, (phaseCode s.phase).toNat⟩

/-- The sample whose every bit is 0: `rst` inactive, `cmd` = NOP, `unit` = Celsius, `line_in` = LOW, `now` = 0. -/
def zeroSample : Inputs where
  rst := false
  cmd := 0#2
  unit := .celsius
  lineIn := .low
  now := 0#32

/-- The sample in front of the block with `rst` taken away; the zero sample if none was presented. -/
def quietSample (s : State) : Inputs :=
  match s.inputs with
  | i :: _ => { i with rst := false }
  | [] => zeroSample

/-- Put a bare word of the table where the next step runs it (log 11). A `phase` value goes into the `phase` register.
A duration `d`: the block is in BIT_HIGH and samples the falling edge `d` µs after `t_start`. A frame: thirty-nine
of its symbols are in `acc`, and the block samples the falling edge that ends the fortieth, a symbol of the shortest
duration of its window; which symbol or fault a duration is, is the block's configuration's to say (log 4). A word that fits
no place changes nothing. -/
def placeWord (s : State) (nbits w : Nat) : State :=
  match tablePlace nbits with
  | some .phase =>
    if w < 8 then { s with phase := phaseOfCode (BitVec.ofNat 3 w), inputs := quietSample s :: s.inputs.tail } else s
  | some .dur =>
    if w < 2 ^ 32 then
      { s with
        phase := .bitHigh
        inputs :=
          { quietSample s with lineIn := .low, now := s.tStart + BitVec.ofNat 32 w } :: s.inputs.tail }
    else s
  | some .frame =>
    if w < 2 ^ 40 then
      { s with
        phase := .bitHigh
        bitcnt := 39#6
        acc := (BitVec.ofNat 40 w) >>> 1
        inputs :=
          { quietSample s with
            lineIn := .low
            now := s.tStart + BitVec.ofNat 32
              (if w % 2 = 0 then s.cfg.sym0Min else s.cfg.sym1Min) } :: s.inputs.tail }
    else s
  | _ => s

end Sys2Proof.Machine
end

