-- ==== Sys2Proof/Machine/Step.lean ====
section
/-! DEFINITION. One step of the block, and the placing of an operation where the next step runs it. -/

namespace Sys2Proof.Machine

/-- One step (00_scope.md R10): the fetched code is decoded and the operation it stands for is run. -/
def step (s : State) : Host.Outcome State Fault Refusal :=
  match decode (fetchWord s) with
  | .instr i => exec i s
  | .rejected e => .refused (.undecoded e)

/-- `s` with the operation of a bare table word placed where `step` runs it next (`placeWord`; log 11). -/
def State.withFetchWord (s : State) (nbits w : Nat) : State := placeWord s nbits w

end Sys2Proof.Machine
end

