-- ==== Sys2Proof/Safety.lean ====
section
/-! DEFINITION. What counts as a safe state and run, in the terms the statements use: the invariants of
10_state.md R22, R24 and R27, the documented configuration, equality of registers, and ideal sampling (00_scope.md R11). -/

namespace Sys2Proof.Machine

/-- "Invariant kept by every step: `frame` is either 0 or a 40-bit value whose checksum is valid" (R22; 0 itself has a
valid checksum). -/
abbrev FrameValid (s : State) : Prop := checksumOk s.frame = true

/-- The bit counter is 0 to `N_BITS`, below it inside the bit loop, and equal to it at validation (R27, R140 (a)). -/
abbrev CountInRange (s : State) : Prop :=
  s.bitcnt.toNat ≤ s.cfg.nBits ∧ (s.phase = .bitLow ∨ s.phase = .bitHigh → s.bitcnt.toNat < s.cfg.nBits) ∧
    (s.phase = .validate → s.bitcnt.toNat = s.cfg.nBits)

/-- `t_start`, and `now` in every sample put in front of the block, have `W` bits (R24, R30). -/
abbrev TimesFit (s : State) : Prop :=
  s.tStart.toNat < 2 ^ s.cfg.nowWidth ∧ ∀ i ∈ s.inputs, i.now.toNat < 2 ^ s.cfg.nowWidth

/-- The invariant of a block with admissible parameters (R6): R22, R24 and R27 together. -/
abbrev SafeState (s : State) : Prop := s.cfg.Admissible ∧ FrameValid s ∧ CountInRange s ∧ TimesFit s

/-- The parameters are the documented ones (R6), whatever the OPEN one, `BIT_HIGH_MAX`, is (decision D5). -/
abbrev AsDocumented (p : Params) : Prop := { p with bitHighMax := none } = Config.params

/-- The six registers of R21 agree. -/
abbrev SameRegisters (s t : State) : Prop :=
  s.frame = t.frame ∧ s.acc = t.acc ∧ s.tStart = t.tStart ∧ s.err = t.err ∧ s.phase = t.phase ∧ s.bitcnt = t.bitcnt

/-- The registers that some output shows agree: `frame`, `err` and `phase` (R21, R34). -/
abbrev SameVisible (s t : State) : Prop := s.frame = t.frame ∧ s.err = t.err ∧ s.phase = t.phase

/-- Ideal sampling (R11) of samples without a reset: the first one is taken when `now` = `n`, and `now` advances by
exactly 1 from each to the next. -/
def IdealFrom (n : Micros) : List Inputs → Prop
  | [] => True
  | i :: rest => i.rst = false ∧ i.now = n ∧ IdealFrom (n + 1#32) rest

/-- Every sample is a step without reset that presents `NOP` or the reserved code: the host asks for nothing. -/
def AllQuiet (l : List Inputs) : Prop := ∀ i ∈ l, i.rst = false ∧ i.cmd ≠ cmdRead ∧ i.cmd ≠ cmdClrerr

end Sys2Proof.Machine
end

