-- ==== Sys2Proof/Certificates/Slice0/Obligations.lean ====
section
/-! DEFINITION. The statements for the provers. `finish s r` is the state after a step that began in `s` and leaves the
registers of `r`: the step's sample is used up, the step is counted, and the outputs showed the registers of `s`
(StepShowsItsStartAndUsesOneSample states that). -/

open Sys2Proof Sys2Proof.Machine

/-! ### Encodings -/

/-- The code of every well-formed operation, on its place, decodes to that operation (30_encoding.md sections 1 to 7).
-/
def Obligations.DecodeOfEncodeIsTheOperation : Prop :=
  ∀ i : Instr, i.wellFormed = true → decode (encode i) = .instr i

/-- A code that decodes, decodes to a well-formed operation whose code it is: no two codes on one place share an
operation, and no bit of a code is dropped (30_encoding.md sections 1 to 7). -/
def Obligations.EncodeOfDecodeIsTheCode : Prop :=
  ∀ (w : CodeWord) (i : Instr), decode w = .instr i → i.wellFormed = true ∧ encode i = w

/-- Some codes written out from the tables of R73 to R76, one for each format. -/
def Obligations.WrittenCodesDecode : Prop :=
  decode ⟨.cmd, 0b01⟩ = .instr .read ∧ decode ⟨.cmd, 0b10⟩ = .instr .clrerr ∧
  decode ⟨.cmd, 0b11⟩ = .instr .cmdReserved ∧ decode ⟨.cmdBusy, 0b01⟩ = .instr (.cmdIgnored 0b01#2) ∧
  decode ⟨.rst, 0b1⟩ = .instr .reset ∧ decode ⟨.phase, 0b011⟩ = .instr .stepAckLow ∧
  decode ⟨.phase, 0b110⟩ = .instr .stepBitHigh ∧ decode ⟨.err, 0b011⟩ = .instr .errChecksumInvalid ∧
  decode ⟨.err, 0b101⟩ = .instr (.errReserved 0b101#3) ∧
  decode ⟨.frame, 0x01F400C8BD⟩ = .instr (.frame 0x01F400C8BD#40) ∧
  decode ⟨.dur, 49⟩ = .instr (.sym0 49#32) ∧ decode ⟨.dur, 50⟩ = .instr (.sym1 50#32) ∧
  decode ⟨.dur, 101⟩ = .instr (.durLong 101#32) ∧ decode ⟨.level, 0b1⟩ = .instr .high ∧
  decode ⟨.dir, 0b1⟩ = .instr .output ∧ decode ⟨.unit, 0b1⟩ = .instr .fahrenheit ∧
  decode ⟨.port .tempOut, 0b0⟩ = .instr .gettempC

/-- R77: the four ranges partition all durations, and each has the class and the result of the table. -/
def Obligations.DurationsHaveExactlyOneClass : Prop :=
  ∀ d : Micros,
    decode ⟨.dur, d.toNat⟩ = .instr (if d.toNat ≤ 19 then .durShort d else if d.toNat ≤ 49 then .sym0 d
      else if d.toNat ≤ 100 then .sym1 d else .durLong d) ∧
    classify Config.params d.toNat = (if d.toNat ≤ 19 then none else if d.toNat ≤ 49 then some 0#1
      else if d.toNat ≤ 100 then some 1#1 else none) ∧
    ∀ i : Instr, i = .durShort d ∨ i = .sym0 d ∨ i = .sym1 d ∨ i = .durLong d →
      (i.wellFormed = true ↔ decode ⟨.dur, d.toNat⟩ = .instr i)

/-- A bare word of the table that decodes, placed in any state of a block with the documented parameters, is what the
very next step runs: the duration rows are the classes of the documented windows (R77). -/
def Obligations.PlacedTableWordRunsNext : Prop :=
  ∀ (s : State) (nbits w : Nat) (i : Instr), AsDocumented s.cfg → decodeTableWord nbits w = some i →
    step (s.withFetchWord nbits w) = exec i (s.withFetchWord nbits w)

/-- A step runs the operation its fetched code decodes to: `rst` first, else the `phase` register (R212). -/
def Obligations.StepRunsTheDecodedOperation : Prop :=
  ∀ (s : State) (i : Instr), decode (fetchWord s) = .instr i →
    step s = exec i s ∧
    fetchWord s = (if (sampleOf s).rst = true then ⟨.rst, 1⟩ else ⟨.phase, (phaseCode s.phase).toNat⟩)

/-! ### Steps, reset, commands -/

/-- No operation of the table halts the block, in any state: "there are no fatal conditions that halt the whole
system" (60_exceptions.md section 2). -/
def Obligations.EveryOperationAnswersANextState : Prop :=
  (∀ (i : Instr) (s : State), ∃ t, exec i s = .next t) ∧ ∀ s : State, ∃ t, step s = .next t

/-- R58: the outputs of a step reflect the writes of the steps before it and none of its own; a step uses up one
sample and is counted. The fields named here are the model's own (log 1, log 2). -/
def Obligations.StepShowsItsStartAndUsesOneSample : Prop :=
  ∀ s t : State, step s = .next t →
    t.inputs = s.inputs.tail ∧ t.tick = s.tick + 1 ∧ t.out = ports (sampleOf s).unit s ∧
    t.out.errOut = errCode s.err ∧ t.out.frameOut = s.frame ∧ (t.out.busy = true ↔ s.phase ≠ .idle)

/-- R174: a step with `rst` = 1, and the operation RESET, write all six registers, whatever the phase and the command;
`busy` is 0 and the line is not driven from the next step. -/
def Obligations.ResetOverridesEverything : Prop :=
  ∀ s r : State,
    r = { s with frame := 0#40, err := .none, phase := .idle, bitcnt := 0#6, acc := 0#40, tStart := 0#32 } →
    exec .reset s = .next (finish s r) ∧
    ((sampleOf s).rst = true → step s = .next (finish s r)) ∧
    busy (finish s r) = false ∧ lineDir (finish s r).phase = .input

/-- "In every phase `rst` = 1 overrides the row" (30_encoding.md section 4): each phase step with `rst` = 1 in its
sample resets the six registers instead; so does, by the model's choice (log 7, log 8, log 15), each row of a code
that is run as a step. -/
def Obligations.RowsRunAsStepsYieldToReset : Prop :=
  ∀ (s : State) (i : Instr), (sampleOf s).rst = true →
    (i = .stepIdle ∨ i = .stepStartLow ∨ i = .stepAckWaitLow ∨ i = .stepAckLow ∨ i = .stepAckHigh ∨ i = .stepBitLow ∨
      i = .stepBitHigh ∨ i = .stepValidate) ∨
    (i = .errNone ∨ i = .errPastReadIntervalLimit ∨ i = .errReadLengthInvalid ∨ i = .errChecksumInvalid ∨
      i = .errUnacknowledgedTransmission ∨ ∃ c, i = .errReserved c) ∨
    (∃ f, i = .frame f) ∨ (∃ d, i = .durShort d ∨ i = .sym0 d ∨ i = .sym1 d ∨ i = .durLong d) →
    exec i s = .next (finish s
      { s with frame := 0#40, err := .none, phase := .idle, bitcnt := 0#6, acc := 0#40, tStart := 0#32 })

/-- The registers and the derived outputs after a step with `rst` = 1, and the state `State.reset` (10_state.md
section 9). That `acc`, `bitcnt` and `t_start` are 0 is the spec's own choice (decision D13); that `line_drv` shows
HIGH, where it is immaterial, is log 14. -/
def Obligations.ResetLeavesTheSpecsValues : Prop :=
  (∀ s t : State, (sampleOf s).rst = true → step s = .next t → SameRegisters t State.reset) ∧
  ∀ t : State, SameRegisters t State.reset →
    t.frame = 0#40 ∧ t.err = .none ∧ t.phase = .idle ∧ t.bitcnt = 0#6 ∧ t.acc = 0#40 ∧ t.tStart = 0#32 ∧
    ∀ u : TempUnit, (ports u t).busy = false ∧ (ports u t).lineDir = .input ∧ (ports u t).lineDrv = .high ∧
      (ports u t).errOut = 0#3 ∧ (ports u t).frameOut = 0#40 ∧ (ports u t).humRaw = 0#16 ∧
      (ports u t).tempSign = 0#1 ∧ (ports u t).tempMag = 0#15 ∧ (ports u t).humOut = 0#16 ∧
      (ports u t).tempOut.toInt = (match u with | .celsius => 0 | .fahrenheit => 320)

/-- In IDLE the step decodes `cmd`, and is the step of the command it finds; outside IDLE it is CMD_IGNORED of it
(44_commands.md section 1). -/
def Obligations.StepIsTheStepOfItsCommand : Prop :=
  ∀ s : State, (sampleOf s).rst = false →
    (s.phase = .idle →
      step s = exec (decodeCmd (sampleOf s).cmd.toNat) s ∧ exec .stepIdle s = step s ∧
      ∀ c : BitVec 2, exec (.cmdIgnored c) s = exec (decodeCmd c.toNat) s) ∧
    (s.phase ≠ .idle → step s = exec (.cmdIgnored (sampleOf s).cmd) s)

/-- STEP_IDLE by the code on `cmd`: 01 starts an attempt, 10 clears the latch, 00 and 11 change no register
(44_commands.md sections 1 to 4 and 6). -/
def Obligations.IdleStepDecodesTheCommand : Prop :=
  ∀ s : State, s.phase = .idle → (sampleOf s).rst = false →
    exec .stepIdle s = .next (finish s
      (if (sampleOf s).cmd = 0b01#2 then { s with phase := .startLow, tStart := (sampleOf s).now }
       else if (sampleOf s).cmd = 0b10#2 then { s with err := .none }
       else s))

/-- R171, R176: in IDLE, NOP and the reserved code change no register. -/
def Obligations.NopAndReservedChangeNoRegister : Prop :=
  ∀ s : State, s.phase = .idle →
    exec .nop s = .next (finish s s) ∧ exec .cmdReserved s = .next (finish s s)

/-- READ accepted in IDLE: `phase <- START_LOW; t_start <- now`, the latch and the frame kept; from the next step the
block is busy and drives the line low (44_commands.md section 3). -/
def Obligations.ReadStartsAnAttempt : Prop :=
  ∀ s r : State, s.phase = .idle → r = { s with phase := .startLow, tStart := (sampleOf s).now } →
    exec .read s = .next (finish s r) ∧
    busy (finish s r) = true ∧ lineDir (finish s r).phase = .output ∧ lineDrv (finish s r).phase = .low

/-- R173: CLRERR in IDLE writes `err` and nothing else; while busy it is ignored; and short of reset it is the only
way back to NONE. -/
def Obligations.ClrerrClearsOnlyTheLatch : Prop :=
  (∀ s : State, s.phase = .idle → exec .clrerr s = .next (finish s { s with err := .none })) ∧
  (∀ s : State, s.phase ≠ .idle → exec .clrerr s = exec .nop s) ∧
  (∀ s t : State, step s = .next t → s.err ≠ .none → t.err = .none →
    (sampleOf s).rst = true ∨ (s.phase = .idle ∧ (sampleOf s).cmd = 0b10#2))

/-- R175: while `phase` is not IDLE every command is ignored and lost; the step is the phase's own. -/
def Obligations.BusyBlockIgnoresEveryCommand : Prop :=
  ∀ s : State, s.phase ≠ .idle →
    (∀ c : BitVec 2, step (present (fun i => { i with cmd := c }) s) = step s) ∧
    ((sampleOf s).rst = false → ∀ (c : BitVec 2) (i : Instr),
      i = .nop ∨ i = .read ∨ i = .clrerr ∨ i = .cmdReserved ∨ i = .cmdIgnored c →
      exec i s = exec (decodePhase (phaseCode s.phase).toNat) s ∧
      ∃ t, exec i s = .next t ∧ t.inputs = s.inputs.tail)

/-! ### The phase steps -/

/-- R8: elapsed time is the unsigned difference modulo 2^W, and that unsigned number is what the rules compare; so a
true interval below 2^W µs is measured right across a wrap of `now`. (`W` is the block's `NOW_WIDTH`, at most the 32
bits of the model's words; log 5.) -/
def Obligations.ElapsedIsTheModularDifference : Prop :=
  (∀ (w : Nat) (now start : Micros), w ≤ 32 → now.toNat < 2 ^ w → start.toNat < 2 ^ w →
    elapsed w now start = (now.toNat + 2 ^ w - start.toNat) % 2 ^ w) ∧
  (∀ s : State, elapsedOf s =
    ((sampleOf s).now.toNat + 2 ^ 32 - s.tStart.toNat) % 2 ^ 32 % 2 ^ s.cfg.nowWidth) ∧
  ∀ (w : Nat) (start : Micros) (d : Nat), w ≤ 32 → start.toNat < 2 ^ w → d < 2 ^ w →
    elapsed w (BitVec.ofNat 32 ((start.toNat + d) % 2 ^ w)) start = d

/-- START_LOW: release at `T_START_LOW`, as documented 2000 µs, nothing before (40_handshake.md section 2; that `now`
times the wait is decision D6). -/
def Obligations.StartLowReleasesAt2000 : Prop :=
  ∀ (s : State) (e : Nat), s.phase = .startLow → (sampleOf s).rst = false →
    e = ((sampleOf s).now.toNat + 2 ^ 32 - s.tStart.toNat) % 2 ^ 32 % 2 ^ s.cfg.nowWidth →
    exec .stepStartLow s = .next (finish s
      (if s.cfg.tStartLow ≤ e then { s with phase := .ackWaitLow, tStart := (sampleOf s).now } else s)) ∧
    step s = exec .stepStartLow s ∧ lineDir s.phase = .output ∧ lineDrv s.phase = .low ∧
    (AsDocumented s.cfg → s.cfg.tStartLow = 2000)

/-- ACK_WAIT_LOW: the deadline `ACK_P1_FAIL_AT`, as documented 40 µs, first, then the level; the line is not driven
(40_handshake.md sections 3 and 6). That exactly 40 fails, and that the deadline comes first, is the spec's own
reading (decision D3, R105). -/
def Obligations.AckWaitLowWaitsForLow : Prop :=
  ∀ (s : State) (e : Nat), s.phase = .ackWaitLow → (sampleOf s).rst = false →
    e = ((sampleOf s).now.toNat + 2 ^ 32 - s.tStart.toNat) % 2 ^ 32 % 2 ^ s.cfg.nowWidth →
    exec .stepAckWaitLow s = .next (finish s
      (if s.cfg.ackP1FailAt ≤ e then { s with err := .unacknowledgedTransmission, phase := .idle }
       else if (sampleOf s).lineIn = .low then { s with phase := .ackLow, tStart := (sampleOf s).now }
       else s)) ∧
    step s = exec .stepAckWaitLow s ∧ lineDir s.phase = .input ∧ (AsDocumented s.cfg → s.cfg.ackP1FailAt = 40)

/-- ACK_LOW: as documented 99 passes and 100, `ACK_P2_FAIL_AT`, fails whatever the line is (40_handshake.md section
4). -/
def Obligations.AckLowWaitsForHigh : Prop :=
  ∀ (s : State) (e : Nat), s.phase = .ackLow → (sampleOf s).rst = false →
    e = ((sampleOf s).now.toNat + 2 ^ 32 - s.tStart.toNat) % 2 ^ 32 % 2 ^ s.cfg.nowWidth →
    exec .stepAckLow s = .next (finish s
      (if s.cfg.ackP2FailAt ≤ e then { s with err := .unacknowledgedTransmission, phase := .idle }
       else if (sampleOf s).lineIn = .high then { s with phase := .ackHigh, tStart := (sampleOf s).now }
       else s)) ∧
    step s = exec .stepAckLow s ∧ (AsDocumented s.cfg → s.cfg.ackP2FailAt = 100)

/-- ACK_HIGH: as ACK_LOW for the other level, with `ACK_P3_FAIL_AT`; success clears `acc` and `bitcnt`
(40_handshake.md section 5). That exactly 100 fails in this phase too is the spec's own reading (decision D3); that
`acc` and `bitcnt` are cleared here is its own choice (decision D12). -/
def Obligations.AckHighEntersDecoding : Prop :=
  ∀ (s : State) (e : Nat), s.phase = .ackHigh → (sampleOf s).rst = false →
    e = ((sampleOf s).now.toNat + 2 ^ 32 - s.tStart.toNat) % 2 ^ 32 % 2 ^ s.cfg.nowWidth →
    exec .stepAckHigh s = .next (finish s
      (if s.cfg.ackP3FailAt ≤ e then { s with err := .unacknowledgedTransmission, phase := .idle }
       else if (sampleOf s).lineIn = .low then
         { s with phase := .bitLow, tStart := (sampleOf s).now, acc := 0#40, bitcnt := 0#6 }
       else s)) ∧
    step s = exec .stepAckHigh s ∧ (AsDocumented s.cfg → s.cfg.ackP3FailAt = 100)

/-- BIT_LOW: as documented 65 passes and 66, `BIT_LOW_FAIL_AT`, fails (41_bit_decoder.md section 1). That comparator
is the spec's own decision D4. -/
def Obligations.BitLowWaitsForHigh : Prop :=
  ∀ (s : State) (e : Nat), s.phase = .bitLow → (sampleOf s).rst = false →
    e = ((sampleOf s).now.toNat + 2 ^ 32 - s.tStart.toNat) % 2 ^ 32 % 2 ^ s.cfg.nowWidth →
    exec .stepBitLow s = .next (finish s
      (if s.cfg.bitLowFailAt ≤ e then { s with err := .pastReadIntervalLimit, phase := .idle }
       else if (sampleOf s).lineIn = .high then { s with phase := .bitHigh, tStart := (sampleOf s).now }
       else s)) ∧
    step s = exec .stepBitLow s ∧ (AsDocumented s.cfg → s.cfg.bitLowFailAt = 66)

/-- BIT_HIGH, whatever the parameters: a LOW sample is classified and shifted in or faults, the `N_BITS`-th symbol
leads to VALIDATE; a HIGH sample changes nothing unless a bound is configured and reached (41_bit_decoder.md sections
2 to 5; the bound is the open parameter of decision D5). -/
def Obligations.BitHighClassifiesAndShifts : Prop :=
  ∀ (s : State) (e : Nat) (received : Nat → State), s.phase = .bitHigh → (sampleOf s).rst = false →
    e = ((sampleOf s).now.toNat + 2 ^ 32 - s.tStart.toNat) % 2 ^ 32 % 2 ^ s.cfg.nowWidth →
    (∀ symbol, received symbol =
      { s with
        acc := BitVec.ofNat 40 ((2 * s.acc.toNat + symbol) % 2 ^ s.cfg.frameWidth)
        bitcnt := s.bitcnt + 1#6
        tStart := (sampleOf s).now
        phase := if s.bitcnt.toNat + 1 = s.cfg.nBits then .validate else .bitLow }) →
    exec .stepBitHigh s = .next (finish s
      (if (sampleOf s).lineIn = .low then
         if s.cfg.sym0Min ≤ e ∧ e ≤ s.cfg.sym0Max then received 0
         else if s.cfg.sym1Min ≤ e ∧ e ≤ s.cfg.sym1Max then received 1
         else { s with err := .readLengthInvalid, phase := .idle }
       else if ∃ b ∈ s.cfg.bitHighMax, b ≤ e then { s with err := .readLengthInvalid, phase := .idle }
       else s)) ∧
    step s = exec .stepBitHigh s ∧
    (AsDocumented s.cfg → s.cfg.sym0Min = 20 ∧ s.cfg.sym0Max = 49 ∧ s.cfg.sym1Min = 50 ∧ s.cfg.sym1Max = 100 ∧
      s.cfg.frameWidth = 40 ∧ s.cfg.nBits = 40)

/-- The optional bound of the high phase: in a block configured with `some b` the line still HIGH at `e` ≥ `b` faults
and before it waits; and with admissible parameters and windows in order a LOW sample at `e` ≥ `b` faults too, so that
the order of the two tests does not matter (41_bit_decoder.md section 2; 92_eei_decisions.md D5). -/
def Obligations.ConfiguredHighBoundFaults : Prop :=
  ∀ (s : State) (b : Nat), s.cfg.bitHighMax = some b → s.phase = .bitHigh → (sampleOf s).rst = false →
    ((sampleOf s).lineIn = .high → step s = .next (finish s
      (if b ≤ elapsedOf s then { s with err := .readLengthInvalid, phase := .idle } else s))) ∧
    (s.cfg.Admissible → s.cfg.sym0Max ≤ s.cfg.sym1Max → b ≤ elapsedOf s →
      step s = .next (finish s { s with err := .readLengthInvalid, phase := .idle }))

/-- R140, R142, R143: VALIDATE promotes the whole raw frame if its checksum holds, `err` not written, and otherwise
raises CHECKSUM_INVALID, `frame` not written; the attempt ends in both cases, and no input but `rst` matters. -/
def Obligations.ValidatePromotesOrRaises : Prop :=
  ∀ s : State, s.phase = .validate → (sampleOf s).rst = false →
    exec .stepValidate s = .next (finish s
      (if (s.acc.toNat / 2 ^ 32 % 256 + s.acc.toNat / 2 ^ 24 % 256 + s.acc.toNat / 2 ^ 16 % 256 +
          s.acc.toNat / 2 ^ 8 % 256) % 256 = s.acc.toNat % 256
       then { s with frame := s.acc, phase := .idle }
       else { s with err := .checksumInvalid, phase := .idle })) ∧
    step s = exec .stepValidate s

/-- R141: `ChecksumOk` compares the low byte with the sum of the other four modulo 256. -/
def Obligations.ChecksumIsTheByteSum : Prop :=
  ∀ a : FrameWord, checksumOk a = true ↔
    (a.toNat / 2 ^ 32 % 256 + a.toNat / 2 ^ 24 % 256 + a.toNat / 2 ^ 16 % 256 + a.toNat / 2 ^ 8 % 256) % 256 =
      a.toNat % 256

/-- R52, R123: one shift is `(2 * acc + s) mod 2^40`; after forty shifts bit `39 - i` is the symbol of iteration `i`,
whatever the accumulator held before; and a duration in neither window shifts nothing. -/
def Obligations.FortyShiftsPutTheFirstSymbolOnTop : Prop :=
  (∀ (a : FrameWord) (b : BitVec 1), (shiftIn 40 a b).toNat = (2 * a.toNat + b.toNat) % 2 ^ 40) ∧
  (∀ (symbol : Nat → BitVec 1) (a : FrameWord) (i : Nat), i < 40 →
    ((List.range 40).foldl (fun x j => shiftIn 40 x (symbol j)) a).extractLsb' (39 - i) 1 = symbol i) ∧
  (∀ s t : State, s.phase = .bitHigh → (sampleOf s).rst = false → classify s.cfg (elapsedOf s) = none →
    step s = .next t → t.acc = s.acc)

/-! ### Outputs and accessors -/

/-- R31 and `busy` of R29 (b): the line is driven, and driven LOW, exactly in START_LOW. -/
def Obligations.LineIsDrivenExactlyInStartLow : Prop :=
  ∀ (u : TempUnit) (s : State),
    ((ports u s).lineDir = .output ↔ s.phase = .startLow) ∧ ((ports u s).lineDrv = .low ↔ s.phase = .startLow) ∧
    ((ports u s).busy = true ↔ s.phase ≠ .idle)

/-- R158: GETERR shows the code of the latch and changes nothing else; the five codes are those of R75. -/
def Obligations.GeterrShowsTheLatch : Prop :=
  ∀ s : State,
    exec .geterr s = .next { s with out := { s.out with
      errOut := match s.err with
        | .none => 0b000#3
        | .pastReadIntervalLimit => 0b001#3
        | .readLengthInvalid => 0b010#3
        | .checksumInvalid => 0b011#3
        | .unacknowledgedTransmission => 0b100#3 } }

/-- GETFRAME shows the last valid frame, HUMRAW its bits 39 to 24 (R32, R150), and nothing else changes. -/
def Obligations.FrameAndHumidityFieldAreShown : Prop :=
  ∀ s : State,
    exec .getframe s = .next { s with out := { s.out with frameOut := s.frame } } ∧
    exec .humraw s = .next { s with out := { s.out with humRaw := BitVec.ofNat 16 (s.frame.toNat / 2 ^ 24) } }

/-- The temperature field as received and the checksum field (43_reading_model.md section 1); nothing else changes. -/
def Obligations.TemperatureAndChecksumFieldsAreShown : Prop :=
  ∀ s : State,
    exec .temprawCkraw s = .next { s with out := { s.out with
      tempRaw := BitVec.ofNat 16 (s.frame.toNat / 2 ^ 8 % 2 ^ 16)
      ckRaw := BitVec.ofNat 8 (s.frame.toNat % 2 ^ 8) } }

/-- R152: the sign flag is bit 23, the magnitude bits 22 to 8, and the exact value is the signed magnitude. -/
def Obligations.SignAndMagnitudeAreShown : Prop :=
  ∀ s : State,
    exec .tempsignMag s = .next { s with out := { s.out with
      tempSign := BitVec.ofNat 1 (s.frame.toNat / 2 ^ 23 % 2)
      tempMag := BitVec.ofNat 15 (s.frame.toNat / 2 ^ 8 % 2 ^ 15) } } ∧
    tempTenthsExact s.frame =
      (if s.frame.toNat / 2 ^ 23 % 2 = 1 then -((s.frame.toNat / 2 ^ 8 % 2 ^ 15 : Nat) : Int)
       else ((s.frame.toNat / 2 ^ 8 % 2 ^ 15 : Nat) : Int)) ∧
    -32767 ≤ tempTenthsExact s.frame ∧ tempTenthsExact s.frame ≤ 32767

/-- R154: `hum_out` is the humidity field with its last decimal digit dropped. -/
def Obligations.GethumTruncates : Prop :=
  ∀ s : State, ∃ v : BitVec 16,
    exec .gethum s = .next { s with out := { s.out with humOut := v } } ∧ v = (ports .celsius s).humOut ∧
    v.toNat = s.frame.toNat / 2 ^ 24 / 10 * 10 ∧ v.toNat ≤ 65530

/-- R155: Celsius, truncated in the magnitude, the sign applied afterwards. -/
def Obligations.GettempCelsiusTruncatesTheMagnitude : Prop :=
  ∀ s : State, ∃ v : BitVec 18,
    exec .gettempC s = .next { s with out := { s.out with tempOut := v } } ∧ v = (ports .celsius s).tempOut ∧
    v.toInt = (if s.frame.toNat / 2 ^ 23 % 2 = 1 then -((s.frame.toNat / 2 ^ 8 % 2 ^ 15 / 10 * 10 : Nat) : Int)
      else ((s.frame.toNat / 2 ^ 8 % 2 ^ 15 / 10 * 10 : Nat) : Int)) ∧
    -32760 ≤ v.toInt ∧ v.toInt ≤ 32760

/-- R156: Fahrenheit from the truncated whole-degree Celsius magnitude, negated when finished. -/
def Obligations.GettempFahrenheitNegatesTheFinishedNumber : Prop :=
  ∀ s : State, ∃ v : BitVec 18,
    exec .gettempF s = .next { s with out := { s.out with tempOut := v } } ∧ v = (ports .fahrenheit s).tempOut ∧
    v.toInt = (if s.frame.toNat / 2 ^ 23 % 2 = 1
        then -((s.frame.toNat / 2 ^ 8 % 2 ^ 15 / 10 * 18 + 320 : Nat) : Int)
        else ((s.frame.toNat / 2 ^ 8 % 2 ^ 15 / 10 * 18 + 320 : Nat) : Int)) ∧
    -59288 ≤ v.toInt ∧ v.toInt ≤ 59288

/-- The outputs are functions of `frame`, `err` and `phase` (and `unit`): a raw frame, the bit counter and the timer
are never shown (43_reading_model.md R153 (b), 10_state.md section 7). -/
def Obligations.OutputsHideTheHiddenRegisters : Prop :=
  ∀ (u : TempUnit) (s t : State), SameVisible s t → ports u s = ports u t

/-! ### Codes as operations -/

/-- The four fault rows, taken as operations, are `raise`: `err` and `phase` and nothing else, over whatever was
latched; from the next step `busy` is 0 and `err_out` is the code (60_exceptions.md section 2). That a row alone is
this operation is the model's choice, log 7. -/
def Obligations.FaultRowsRaise : Prop :=
  ∀ (s : State) (k : ErrKind) (i : Instr), (sampleOf s).rst = false →
    (i = .errPastReadIntervalLimit ∧ k = .pastReadIntervalLimit) ∨ (i = .errReadLengthInvalid ∧ k = .readLengthInvalid) ∨
      (i = .errChecksumInvalid ∧ k = .checksumInvalid) ∨
      (i = .errUnacknowledgedTransmission ∧ k = .unacknowledgedTransmission) →
    exec i s = .next (finish s { s with err := k, phase := .idle }) ∧
    busy (finish s { s with err := k, phase := .idle }) = false ∧
    ∀ u, (ports u (finish s { s with err := k, phase := .idle })).errOut = errCode k

/-- The row NONE, taken as an operation, clears the latch and nothing else; the reserved rows write nothing. The
model's choice, log 7 (30_encoding.md section 8, U9). -/
def Obligations.NoneRowClearsAndReservedRowsWriteNothing : Prop :=
  ∀ s : State, (sampleOf s).rst = false →
    exec .errNone s = .next (finish s { s with err := .none }) ∧
    ∀ c : BitVec 3, 5 ≤ c.toNat → exec (.errReserved c) s = .next (finish s s)

/-- The duration rows, taken as operations: a symbol is shifted in and counted and restarts the timer, a duration
outside both windows faults (41_bit_decoder.md sections 2 to 5). -/
def Obligations.DurationRowsShiftOrRaise : Prop :=
  ∀ (s : State) (d : Micros), (sampleOf s).rst = false →
    (d.toNat < 20 → exec (.durShort d) s = .next (finish s { s with err := .readLengthInvalid, phase := .idle })) ∧
    (20 ≤ d.toNat → d.toNat ≤ 49 → exec (.sym0 d) s = .next (finish s
      { s with
        acc := BitVec.ofNat 40 (2 * s.acc.toNat % 2 ^ s.cfg.frameWidth), bitcnt := s.bitcnt + 1#6
        tStart := (sampleOf s).now, phase := if s.bitcnt.toNat + 1 = s.cfg.nBits then .validate else .bitLow })) ∧
    (50 ≤ d.toNat → d.toNat ≤ 100 → exec (.sym1 d) s = .next (finish s
      { s with
        acc := BitVec.ofNat 40 ((2 * s.acc.toNat + 1) % 2 ^ s.cfg.frameWidth), bitcnt := s.bitcnt + 1#6
        tStart := (sampleOf s).now, phase := if s.bitcnt.toNat + 1 = s.cfg.nBits then .validate else .bitLow })) ∧
    (100 < d.toNat → exec (.durLong d) s = .next (finish s { s with err := .readLengthInvalid, phase := .idle }))

/-- With the documented windows, which the rows are the classes of (R77), the falling edge in BIT_HIGH does what the
row of the recorded duration does (41_bit_decoder.md sections 2, 3). -/
def Obligations.FallingEdgeRunsTheDurationRow : Prop :=
  ∀ s : State, AsDocumented s.cfg → s.phase = .bitHigh → (sampleOf s).rst = false → (sampleOf s).lineIn = .low →
    ∃ i : Instr, decode ⟨.dur, elapsedOf s⟩ = .instr i ∧ i.wellFormed = true ∧
      step s = exec i s

/-- The exact condition of each fault (60_exceptions.md section 1), whatever the parameters: where it holds, the step
is that fault's row; and a kind that a step latches anew was raised under its condition. -/
def Obligations.FaultsAreRaisedExactlyWhere : Prop :=
  ∀ (s : State) (e : Nat) (cond : ErrKind → Prop), (sampleOf s).rst = false →
    e = ((sampleOf s).now.toNat + 2 ^ 32 - s.tStart.toNat) % 2 ^ 32 % 2 ^ s.cfg.nowWidth →
    (∀ k, cond k ↔ match k with
      | .none => False
      | .pastReadIntervalLimit => s.phase = .bitLow ∧ s.cfg.bitLowFailAt ≤ e
      | .readLengthInvalid => s.phase = .bitHigh ∧
          ((sampleOf s).lineIn = .low ∧ ¬(s.cfg.sym0Min ≤ e ∧ e ≤ s.cfg.sym0Max) ∧
              ¬(s.cfg.sym1Min ≤ e ∧ e ≤ s.cfg.sym1Max) ∨
            (sampleOf s).lineIn = .high ∧ ∃ b ∈ s.cfg.bitHighMax, b ≤ e)
      | .checksumInvalid => s.phase = .validate ∧ checksumOk s.acc = false
      | .unacknowledgedTransmission => s.phase = .ackWaitLow ∧ s.cfg.ackP1FailAt ≤ e ∨
          s.phase = .ackLow ∧ s.cfg.ackP2FailAt ≤ e ∨ s.phase = .ackHigh ∧ s.cfg.ackP3FailAt ≤ e) →
    (cond .pastReadIntervalLimit → step s = exec .errPastReadIntervalLimit s) ∧
    (cond .readLengthInvalid → step s = exec .errReadLengthInvalid s) ∧
    (cond .checksumInvalid → step s = exec .errChecksumInvalid s) ∧
    (cond .unacknowledgedTransmission → step s = exec .errUnacknowledgedTransmission s) ∧
    ∀ (t : State) (k : ErrKind), step s = .next t → t.err = k → k ≠ .none → s.err = k ∨ cond k

/-- The row FRAME, taken as an operation in a block with admissible parameters: the forty symbols of `f`, first symbol
bit 39, leave `f` in `acc` and the block before VALIDATE. That the row alone is this operation is the model's choice,
log 8. -/
def Obligations.ReceivedFrameIsInTheAccumulator : Prop :=
  ∀ (s : State) (f : FrameWord), s.cfg.Admissible → (sampleOf s).rst = false →
    exec (.frame f) s = .next (finish s
      { s with acc := f, bitcnt := 40#6, tStart := (sampleOf s).now, phase := .validate })

/-- The rows LOW and HIGH, taken as operations, are one step with that level on `line_in`, `cmd` = NOP and no reset
(30_encoding.md section 9; log 9); in a wait for that level before its deadline the step moves on, in a wait for the
other level it stays. -/
def Obligations.LevelRowsAreOneStepAtThatLevel : Prop :=
  ∀ (s : State) (l : Level) (i : Instr), (i = .low ∧ l = .low) ∨ (i = .high ∧ l = .high) →
    (∃ t, exec i s = .next t ∧
      step (present (fun x => { x with rst := false, cmd := 0b00#2, lineIn := l }) s) = .next t ∧
      t.inputs = s.inputs.tail) ∧
    (s.phase = .ackWaitLow → elapsedOf s < s.cfg.ackP1FailAt → exec i s = .next (finish s
      (if l = .low then { s with phase := .ackLow, tStart := (sampleOf s).now } else s))) ∧
    (s.phase = .ackLow → elapsedOf s < s.cfg.ackP2FailAt → exec i s = .next (finish s
      (if l = .high then { s with phase := .ackHigh, tStart := (sampleOf s).now } else s))) ∧
    (s.phase = .idle → exec i s = .next (finish s s))

/-- The rows INPUT and OUTPUT, taken as operations, show their code on `line_dir` and change nothing else
(30_encoding.md section 6; log 10); what the block itself shows there is LineIsDrivenExactlyInStartLow. -/
def Obligations.DirectionRowsShowTheirCode : Prop :=
  ∀ s : State,
    exec .input s = .next { s with out := { s.out with lineDir := .input } } ∧
    exec .output s = .next { s with out := { s.out with lineDir := .output } } ∧
    dirCode .input = 0#1 ∧ dirCode .output = 1#1

/-- The rows CELSIUS and FAHRENHEIT, taken as operations, present their code on `unit` for the step to come, and
`temp_out` follows (R76, R157; log 10); no register changes. -/
def Obligations.UnitRowsSelectTheTemperature : Prop :=
  ∀ (s : State) (u : TempUnit) (i : Instr), (i = .celsius ∧ u = .celsius) ∨ (i = .fahrenheit ∧ u = .fahrenheit) →
    exec i s = .next { s with
      inputs := { sampleOf s with unit := u } :: s.inputs.tail
      out := { s.out with tempOut := (ports u s).tempOut } } ∧
    ∃ t, exec i s = .next t ∧ SameRegisters s t ∧ (sampleOf t).unit = u

/-! ### Invariants and whole-machine rules -/

/-- R22, R24 and R27, for admissible parameters: `frame` has a valid checksum, `bitcnt` is at most `N_BITS`, below it
in the bit loop and equal to it at validation, `t_start` has `W` bits if the samples of `now` have; every step keeps
that, from any state that has it, and keeps the parameters (R61). The frame width of 40 and `W` up to 32 in
`Admissible` are log 5. -/
def Obligations.EveryStepKeepsFrameValidAndCountInRange : Prop :=
  ∀ s t : State, SafeState s → step s = .next t → SafeState t ∧ t.cfg = s.cfg

/-- The invariant holds after reset, and the parameters are the documented ones of R6, which are admissible; that the
model's reset state carries them is log 4. -/
def Obligations.ResetStateMeetsTheInvariant : Prop :=
  SafeState State.reset ∧ State.reset.cfg =
    { nBits := 40, frameWidth := 40, nowWidth := 32, tStartLow := 2000, ackP1FailAt := 40, ackP2FailAt := 100,
      ackP3FailAt := 100, bitLowFailAt := 66, sym0Min := 20, sym0Max := 49, sym1Min := 50, sym1Max := 100,
      bitHighMax := none }

/-- R22: `frame` is written only by a VALIDATE step whose checksum holds, with the raw frame, and by reset. -/
def Obligations.FrameIsWrittenOnlyByPromotion : Prop :=
  ∀ s t : State, step s = .next t → t.frame ≠ s.frame →
    ((sampleOf s).rst = true ∧ t.frame = 0#40) ∨
    ((sampleOf s).rst = false ∧ s.phase = .validate ∧ checksumOk s.acc = true ∧ t.frame = s.acc ∧ t.err = s.err)

/-- R206, R207, R208: the latch changes only at a fault, which overwrites it and ends the attempt, at a CLRERR
accepted in IDLE, and at reset; a success, a new READ and every other step keep it. -/
def Obligations.LatchIsSticky : Prop :=
  ∀ s t : State, step s = .next t →
    t.err = s.err ∨
    ((sampleOf s).rst = true ∧ t.err = .none) ∨
    (s.phase = .idle ∧ (sampleOf s).cmd = 0b10#2 ∧ t.err = .none) ∨
    (s.phase ≠ .idle ∧ s.phase ≠ .startLow ∧ t.phase = .idle ∧ t.err ≠ .none ∧ t.frame = s.frame)

/-- The map of transitions (30_encoding.md section 4): from each phase a step without reset leads only to the phases
the map names. -/
def Obligations.PhasesFollowTheTransitionMap : Prop :=
  ∀ s t : State, (sampleOf s).rst = false → step s = .next t →
    (s.phase, t.phase) ∈ [(Phase.idle, Phase.idle), (.idle, .startLow), (.startLow, .startLow),
      (.startLow, .ackWaitLow), (.ackWaitLow, .ackWaitLow), (.ackWaitLow, .idle), (.ackWaitLow, .ackLow),
      (.ackLow, .ackLow), (.ackLow, .idle), (.ackLow, .ackHigh), (.ackHigh, .ackHigh), (.ackHigh, .idle),
      (.ackHigh, .bitLow), (.bitLow, .bitLow), (.bitLow, .idle), (.bitLow, .bitHigh), (.bitHigh, .bitHigh),
      (.bitHigh, .idle), (.bitHigh, .bitLow), (.bitHigh, .validate), (.validate, .idle)]

/-- The level of the line matters only in the five line-waiting phases (20_memory.md section 6, D21), and the counter
`now` in none of IDLE and VALIDATE unless a READ is accepted (10_state.md section 5). -/
def Obligations.UnsampledInputsDoNotMatter : Prop :=
  ∀ s : State,
    (s.phase = .idle ∨ s.phase = .startLow ∨ s.phase = .validate →
      ∀ l : Level, step (present (fun i => { i with lineIn := l }) s) = step s) ∧
    (s.phase = .validate ∨ (s.phase = .idle ∧ (sampleOf s).cmd ≠ 0b01#2) →
      ∀ n : Micros, step (present (fun i => { i with now := n }) s) = step s)

/-- R34: what the hidden registers held before an attempt never influences it: two idle blocks of one configuration
that agree on `frame` and `err` and are given the same samples agree on them, on `phase` and on every output after any
number of steps. -/
def Obligations.HiddenRegistersNeverInfluenceAnAttempt : Prop :=
  ∀ (n : Nat) (s t : State), s.phase = .idle → SameVisible s t → s.cfg = t.cfg → s.inputs = t.inputs →
    s.tick = t.tick → s.out = t.out → ∃ s' t' : State, Host.Core.run core n s = .next s' ∧
      Host.Core.run core n t = .next t' ∧ SameVisible s' t' ∧ s'.out = t'.out

/-! ### Runs -/

/-- An idle block that is asked for nothing keeps all its registers, however long (44_commands.md section 2). -/
def Obligations.IdleBlockKeepsItsRegisters : Prop :=
  ∀ (n : Nat) (s : State), s.phase = .idle → n ≤ s.inputs.length → AllQuiet (s.inputs.take n) →
    ∃ t : State, Host.Core.run core n s = .next t ∧ SameRegisters s t ∧ t.inputs = s.inputs.drop n

/-- The stuck-high hang, with `BIT_HIGH_MAX` = none (R242): while the line is HIGH and there is no reset, a block in
BIT_HIGH changes no register and stays busy, whatever `cmd` and `now` are, for any number of steps; a reset then ends
it. -/
def Obligations.StuckHighLineHangsTheAttempt : Prop :=
  ∀ (n : Nat) (s : State), s.cfg.bitHighMax = none → s.phase = .bitHigh → n ≤ s.inputs.length →
    (∀ i ∈ s.inputs.take n, i.rst = false ∧ i.lineIn = .high) →
    ∃ t : State, Host.Core.run core n s = .next t ∧ SameRegisters s t ∧ busy t = true ∧
      ∃ u : State, step (present (fun i => { i with rst := true }) t) = .next u ∧ busy u = false

/-- Under ideal sampling START_LOW lasts exactly 2000 steps, driving the line LOW throughout (40_handshake.md section
2, corner case (a); 70_reset_and_hazards.md section 4). -/
def Obligations.StartLowLastsExactly2000Steps : Prop :=
  ∀ s : State, AsDocumented s.cfg → s.phase = .startLow → 2000 ≤ s.inputs.length →
    IdealFrom (s.tStart + 1#32) (s.inputs.take 2000) →
    (∀ k < 2000, ∃ t : State, Host.Core.run core k s = .next t ∧ SameRegisters s t ∧ lineDir t.phase = .output ∧
      lineDrv t.phase = .low) ∧
    ∃ t : State, Host.Core.run core 2000 s = .next t ∧ t.phase = .ackWaitLow ∧ t.tStart = s.tStart + 2000#32 ∧
      t.frame = s.frame ∧ t.acc = s.acc ∧ t.err = s.err ∧ t.bitcnt = s.bitcnt

/-- Under ideal sampling each bounded wait is over within its bound: ACK_WAIT_LOW 40 steps, ACK_LOW and ACK_HIGH 100,
BIT_LOW 66, and BIT_HIGH its bound if one is configured, whatever the line does (70_reset_and_hazards.md section 4).
-/
def Obligations.BoundedWaitsEndInTime : Prop :=
  ∀ (s : State) (bound : Nat), AsDocumented s.cfg →
    (s.phase = .ackWaitLow ∧ bound = 40) ∨ (s.phase = .ackLow ∧ bound = 100) ∨ (s.phase = .ackHigh ∧ bound = 100) ∨
      (s.phase = .bitLow ∧ bound = 66) ∨
      (s.phase = .bitHigh ∧ s.cfg.bitHighMax = some bound ∧ 1 ≤ bound ∧ bound < 2 ^ 32) →
    bound ≤ s.inputs.length → IdealFrom (s.tStart + 1#32) (s.inputs.take bound) →
    ∃ k, 1 ≤ k ∧ k ≤ bound ∧ ∃ t : State, Host.Core.run core k s = .next t ∧ t.phase ≠ s.phase ∧
      t.frame = s.frame

/-- Under ideal sampling the handshake is over within 2240 steps of the step that accepted READ, whatever the line
does: in decoding with a cleared accumulator, or in IDLE with UNACKNOWLEDGED_TRANSMISSION latched; the frame is kept
(70_reset_and_hazards.md section 4). -/
def Obligations.HandshakeEndsWithin2240Steps : Prop :=
  ∀ s : State, AsDocumented s.cfg → s.phase = .startLow → 2240 ≤ s.inputs.length →
    IdealFrom (s.tStart + 1#32) (s.inputs.take 2240) →
    ∃ k ≤ 2240, ∃ t : State, Host.Core.run core k s = .next t ∧ t.frame = s.frame ∧
      ((t.phase = .bitLow ∧ t.acc = 0#40 ∧ t.bitcnt = 0#6 ∧ t.err = s.err) ∨
       (t.phase = .idle ∧ t.err = .unacknowledgedTransmission))

/-- Under ideal sampling one bit of `low` µs LOW (1 to 65) and `high` µs HIGH is received as the symbol its high time
stands for, 0 for 20 to 49 and 1 for 50 to 100, and any other high time below 2^32, and not above a configured bound,
ends in READ_LENGTH_INVALID: the timer of each wait runs from the edge that began it (00_scope.md R11;
41_bit_decoder.md sections 1 to 5). -/
def Obligations.BitOfGivenDurationsIsReceived : Prop :=
  ∀ (s : State) (low high : Nat), AsDocumented s.cfg → (∀ b ∈ s.cfg.bitHighMax, high ≤ b) →
    s.phase = .bitLow → 1 ≤ low → low ≤ 65 → 1 ≤ high → high < 2 ^ 32 →
    (s.inputs.take (low + high)).map Inputs.lineIn =
      List.replicate (low - 1) .low ++ List.replicate high .high ++ [.low] →
    IdealFrom (s.tStart + 1#32) (s.inputs.take (low + high)) →
    ∃ t : State, Host.Core.run core (low + high) s = .next t ∧ t.frame = s.frame ∧
      t.inputs = s.inputs.drop (low + high) ∧
      (20 ≤ high → high ≤ 100 →
        t.acc = BitVec.ofNat 40 (2 * s.acc.toNat + (if high ≤ 49 then 0 else 1)) ∧ t.bitcnt = s.bitcnt + 1#6 ∧
        t.tStart = s.tStart + BitVec.ofNat 32 (low + high) ∧ t.err = s.err ∧
        t.phase = (if s.bitcnt = 39#6 then .validate else .bitLow)) ∧
      (high < 20 ∨ 100 < high →
        t.phase = .idle ∧ t.err = .readLengthInvalid ∧ t.acc = s.acc ∧ t.bitcnt = s.bitcnt)

/-- Under ideal sampling a whole wire frame, its first bit's low phase just entered, is received and judged: for `f`
sent most significant bit first, bit `39 - i` with a low phase of `low i` µs (1 to 65) and a high phase of `high i` µs
in the window of that bit, the step after the fortieth bit stores exactly `f` if its checksum holds, the latch kept,
and otherwise keeps the old frame and latches CHECKSUM_INVALID (41_bit_decoder.md sections 1 to 5;
42_frame_validator.md). -/
def Obligations.WireFrameIsReceivedAndValidated : Prop :=
  ∀ (s : State) (f : FrameWord) (low high : Nat → Nat) (n : Nat), AsDocumented s.cfg → s.cfg.Admissible →
    s.phase = .bitLow → s.bitcnt = 0#6 →
    (∀ i < 40, 1 ≤ low i ∧ low i ≤ 65 ∧
      if f.getLsbD (39 - i) = true then 50 ≤ high i ∧ high i ≤ 100 else 20 ≤ high i ∧ high i ≤ 49) →
    n = ((List.range 40).map fun i => low i + high i).sum → n + 1 ≤ s.inputs.length →
    (s.inputs.take n).map Inputs.lineIn = (List.range 40).flatMap (fun i =>
      List.replicate (low i - 1) .low ++ List.replicate (high i) .high ++ [.low]) →
    IdealFrom (s.tStart + 1#32) (s.inputs.take (n + 1)) →
    ∃ t : State, Host.Core.run core (n + 1) s = .next t ∧ t.phase = .idle ∧ t.acc = f ∧
      (checksumOk f = true → t.frame = f ∧ t.err = s.err) ∧
      (checksumOk f = false → t.frame = s.frame ∧ t.err = .checksumInvalid)
end

