-- ==== Sys2Proof/Laws/Decode.lean ====
section
/-! SUPPORT. What the decoder and the classifier answer, said once with the documented windows. -/

namespace Sys2Proof

/-- A code that fits its place is decoded there. -/
theorem decode_of_fits (place : Place) (bits : Nat) (h : bits < 2 ^ placeWidth place) :
    decode ⟨place, bits⟩ = decodeFitting place bits := if_pos h

/-- A code that does not fit its place is rejected. -/
theorem decode_of_not_fits (place : Place) (bits : Nat) (h : ¬bits < 2 ^ placeWidth place) :
    decode ⟨place, bits⟩ = .rejected (.tooWide place bits) := if_neg h

/-- The class of a duration, by the documented windows (R77). -/
theorem decodeDur_cases (d : Micros) :
    (d.toNat < 20 ∧ decodeDur d = .durShort d) ∨ (20 ≤ d.toNat ∧ d.toNat ≤ 49 ∧ decodeDur d = .sym0 d) ∨
    (50 ≤ d.toNat ∧ d.toNat ≤ 100 ∧ decodeDur d = .sym1 d) ∨ (100 < d.toNat ∧ decodeDur d = .durLong d) := by
  by_cases h1 : d.toNat < 20
  · exact .inl ⟨h1, if_pos h1⟩
  by_cases h2 : d.toNat ≤ 49
  · exact .inr (.inl ⟨by omega, h2, (if_neg h1).trans (if_pos h2)⟩)
  by_cases h3 : d.toNat ≤ 100
  · exact .inr (.inr (.inl ⟨by omega, h3, (if_neg h1).trans ((if_neg h2).trans (if_pos h3))⟩))
  · exact .inr (.inr (.inr ⟨by omega, (if_neg h1).trans ((if_neg h2).trans (if_neg h3))⟩))

/-- Every duration decodes, to its class. -/
theorem decode_dur (d : Micros) : decode ⟨.dur, d.toNat⟩ = .instr (decodeDur d) := by
  rw [decode_of_fits _ _ d.isLt]
  simp [decodeFitting]

/-- The phase a phase's code names. -/
theorem phaseOfCode_phaseCode (ph : Phase) : phaseOfCode (phaseCode ph) = ph := by cases ph <;> rfl

/-- The code of the phase a code names. -/
theorem phaseCode_phaseOfCode (c : BitVec 3) : phaseCode (phaseOfCode c) = c := by revert c; decide

/-- The range of a reserved error code (R75). -/
theorem wellFormed_errReserved (c : BitVec 3) : (Instr.errReserved c).wellFormed = true ↔ 5 ≤ c.toNat :=
  decide_eq_true_iff

/-- The range of DUR_SHORT (R77). -/
theorem wellFormed_durShort (d : Micros) : (Instr.durShort d).wellFormed = true ↔ d.toNat < 20 :=
  decide_eq_true_iff

/-- The range of SYM0 (R77). -/
theorem wellFormed_sym0 (d : Micros) : (Instr.sym0 d).wellFormed = true ↔ 20 ≤ d.toNat ∧ d.toNat ≤ 49 :=
  decide_eq_true_iff

/-- The range of SYM1 (R77). -/
theorem wellFormed_sym1 (d : Micros) : (Instr.sym1 d).wellFormed = true ↔ 50 ≤ d.toNat ∧ d.toNat ≤ 100 :=
  decide_eq_true_iff

/-- The range of DUR_LONG (R77). -/
theorem wellFormed_durLong (d : Micros) : (Instr.durLong d).wellFormed = true ↔ 100 < d.toNat :=
  decide_eq_true_iff

end Sys2Proof

namespace Sys2Proof.Machine

/-- `Classify` with the documented windows (R122). -/
theorem classify_cases (d : Nat) :
    (20 ≤ d ∧ d ≤ 49 ∧ classify Config.params d = some 0#1) ∨
    (50 ≤ d ∧ d ≤ 100 ∧ classify Config.params d = some 1#1) ∨
    ((d < 20 ∨ 100 < d) ∧ classify Config.params d = none) := by
  by_cases h0 : 20 ≤ d ∧ d ≤ 49
  · exact .inl ⟨h0.1, h0.2, if_pos h0⟩
  by_cases h1 : 50 ≤ d ∧ d ≤ 100
  · exact .inr (.inl ⟨h1.1, h1.2, (if_neg h0).trans (if_pos h1)⟩)
  · exact .inr (.inr ⟨by omega, (if_neg h0).trans (if_neg h1)⟩)

end Sys2Proof.Machine
end

