-- ==== Sys2Proof/Laws/State.lean ====
section
/-! SUPPORT. The small lemmas of every named update of State: one per field, true by rfl, so that no later proof unfolds
a record update. -/

namespace Sys2Proof.Machine

@[simp] theorem present_frame (f : Inputs → Inputs) (s : State) : (present f s).frame = s.frame := rfl
@[simp] theorem present_acc (f : Inputs → Inputs) (s : State) : (present f s).acc = s.acc := rfl
@[simp] theorem present_tStart (f : Inputs → Inputs) (s : State) : (present f s).tStart = s.tStart := rfl
@[simp] theorem present_err (f : Inputs → Inputs) (s : State) : (present f s).err = s.err := rfl
@[simp] theorem present_phase (f : Inputs → Inputs) (s : State) : (present f s).phase = s.phase := rfl
@[simp] theorem present_bitcnt (f : Inputs → Inputs) (s : State) : (present f s).bitcnt = s.bitcnt := rfl
@[simp] theorem present_cfg (f : Inputs → Inputs) (s : State) : (present f s).cfg = s.cfg := rfl
@[simp] theorem present_inputs (f : Inputs → Inputs) (s : State) : (present f s).inputs = f (sampleOf s) :: s.inputs.tail := rfl
@[simp] theorem present_tick (f : Inputs → Inputs) (s : State) : (present f s).tick = s.tick := rfl
@[simp] theorem present_out (f : Inputs → Inputs) (s : State) : (present f s).out = s.out := rfl

@[simp] theorem showing_frame (f : Outputs → Outputs) (s : State) : (showing f s).frame = s.frame := rfl
@[simp] theorem showing_acc (f : Outputs → Outputs) (s : State) : (showing f s).acc = s.acc := rfl
@[simp] theorem showing_tStart (f : Outputs → Outputs) (s : State) : (showing f s).tStart = s.tStart := rfl
@[simp] theorem showing_err (f : Outputs → Outputs) (s : State) : (showing f s).err = s.err := rfl
@[simp] theorem showing_phase (f : Outputs → Outputs) (s : State) : (showing f s).phase = s.phase := rfl
@[simp] theorem showing_bitcnt (f : Outputs → Outputs) (s : State) : (showing f s).bitcnt = s.bitcnt := rfl
@[simp] theorem showing_cfg (f : Outputs → Outputs) (s : State) : (showing f s).cfg = s.cfg := rfl
@[simp] theorem showing_inputs (f : Outputs → Outputs) (s : State) : (showing f s).inputs = s.inputs := rfl
@[simp] theorem showing_tick (f : Outputs → Outputs) (s : State) : (showing f s).tick = s.tick := rfl
@[simp] theorem showing_out (f : Outputs → Outputs) (s : State) : (showing f s).out = f s.out := rfl

@[simp] theorem finish_frame (s t : State) : (finish s t).frame = t.frame := rfl
@[simp] theorem finish_acc (s t : State) : (finish s t).acc = t.acc := rfl
@[simp] theorem finish_tStart (s t : State) : (finish s t).tStart = t.tStart := rfl
@[simp] theorem finish_err (s t : State) : (finish s t).err = t.err := rfl
@[simp] theorem finish_phase (s t : State) : (finish s t).phase = t.phase := rfl
@[simp] theorem finish_bitcnt (s t : State) : (finish s t).bitcnt = t.bitcnt := rfl
@[simp] theorem finish_cfg (s t : State) : (finish s t).cfg = t.cfg := rfl
@[simp] theorem finish_inputs (s t : State) : (finish s t).inputs = s.inputs.tail := rfl
@[simp] theorem finish_tick (s t : State) : (finish s t).tick = s.tick + 1 := rfl
@[simp] theorem finish_out (s t : State) : (finish s t).out = ports (sampleOf s).unit s := rfl

@[simp] theorem raise_frame (k : ErrKind) (s : State) : (raise k s).frame = s.frame := rfl
@[simp] theorem raise_acc (k : ErrKind) (s : State) : (raise k s).acc = s.acc := rfl
@[simp] theorem raise_tStart (k : ErrKind) (s : State) : (raise k s).tStart = s.tStart := rfl
@[simp] theorem raise_err (k : ErrKind) (s : State) : (raise k s).err = k := rfl
@[simp] theorem raise_phase (k : ErrKind) (s : State) : (raise k s).phase = .idle := rfl
@[simp] theorem raise_bitcnt (k : ErrKind) (s : State) : (raise k s).bitcnt = s.bitcnt := rfl
@[simp] theorem raise_cfg (k : ErrKind) (s : State) : (raise k s).cfg = s.cfg := rfl
@[simp] theorem raise_inputs (k : ErrKind) (s : State) : (raise k s).inputs = s.inputs := rfl
@[simp] theorem raise_tick (k : ErrKind) (s : State) : (raise k s).tick = s.tick := rfl
@[simp] theorem raise_out (k : ErrKind) (s : State) : (raise k s).out = s.out := rfl

@[simp] theorem clearErr_frame (s : State) : (clearErr s).frame = s.frame := rfl
@[simp] theorem clearErr_acc (s : State) : (clearErr s).acc = s.acc := rfl
@[simp] theorem clearErr_tStart (s : State) : (clearErr s).tStart = s.tStart := rfl
@[simp] theorem clearErr_err (s : State) : (clearErr s).err = .none := rfl
@[simp] theorem clearErr_phase (s : State) : (clearErr s).phase = s.phase := rfl
@[simp] theorem clearErr_bitcnt (s : State) : (clearErr s).bitcnt = s.bitcnt := rfl
@[simp] theorem clearErr_cfg (s : State) : (clearErr s).cfg = s.cfg := rfl
@[simp] theorem clearErr_inputs (s : State) : (clearErr s).inputs = s.inputs := rfl
@[simp] theorem clearErr_tick (s : State) : (clearErr s).tick = s.tick := rfl
@[simp] theorem clearErr_out (s : State) : (clearErr s).out = s.out := rfl

@[simp] theorem resetRegs_frame (s : State) : (resetRegs s).frame = 0#40 := rfl
@[simp] theorem resetRegs_acc (s : State) : (resetRegs s).acc = 0#40 := rfl
@[simp] theorem resetRegs_tStart (s : State) : (resetRegs s).tStart = 0#32 := rfl
@[simp] theorem resetRegs_err (s : State) : (resetRegs s).err = .none := rfl
@[simp] theorem resetRegs_phase (s : State) : (resetRegs s).phase = .idle := rfl
@[simp] theorem resetRegs_bitcnt (s : State) : (resetRegs s).bitcnt = 0#6 := rfl
@[simp] theorem resetRegs_cfg (s : State) : (resetRegs s).cfg = s.cfg := rfl
@[simp] theorem resetRegs_inputs (s : State) : (resetRegs s).inputs = s.inputs := rfl
@[simp] theorem resetRegs_tick (s : State) : (resetRegs s).tick = s.tick := rfl
@[simp] theorem resetRegs_out (s : State) : (resetRegs s).out = s.out := rfl

@[simp] theorem startAttempt_frame (s : State) : (startAttempt s).frame = s.frame := rfl
@[simp] theorem startAttempt_acc (s : State) : (startAttempt s).acc = s.acc := rfl
@[simp] theorem startAttempt_tStart (s : State) : (startAttempt s).tStart = (sampleOf s).now := rfl
@[simp] theorem startAttempt_err (s : State) : (startAttempt s).err = s.err := rfl
@[simp] theorem startAttempt_phase (s : State) : (startAttempt s).phase = .startLow := rfl
@[simp] theorem startAttempt_bitcnt (s : State) : (startAttempt s).bitcnt = s.bitcnt := rfl
@[simp] theorem startAttempt_cfg (s : State) : (startAttempt s).cfg = s.cfg := rfl
@[simp] theorem startAttempt_inputs (s : State) : (startAttempt s).inputs = s.inputs := rfl
@[simp] theorem startAttempt_tick (s : State) : (startAttempt s).tick = s.tick := rfl
@[simp] theorem startAttempt_out (s : State) : (startAttempt s).out = s.out := rfl

@[simp] theorem enter_frame (ph : Phase) (s : State) : (enter ph s).frame = s.frame := rfl
@[simp] theorem enter_acc (ph : Phase) (s : State) : (enter ph s).acc = s.acc := rfl
@[simp] theorem enter_tStart (ph : Phase) (s : State) : (enter ph s).tStart = (sampleOf s).now := rfl
@[simp] theorem enter_err (ph : Phase) (s : State) : (enter ph s).err = s.err := rfl
@[simp] theorem enter_phase (ph : Phase) (s : State) : (enter ph s).phase = ph := rfl
@[simp] theorem enter_bitcnt (ph : Phase) (s : State) : (enter ph s).bitcnt = s.bitcnt := rfl
@[simp] theorem enter_cfg (ph : Phase) (s : State) : (enter ph s).cfg = s.cfg := rfl
@[simp] theorem enter_inputs (ph : Phase) (s : State) : (enter ph s).inputs = s.inputs := rfl
@[simp] theorem enter_tick (ph : Phase) (s : State) : (enter ph s).tick = s.tick := rfl
@[simp] theorem enter_out (ph : Phase) (s : State) : (enter ph s).out = s.out := rfl

@[simp] theorem enterDecoding_frame (s : State) : (enterDecoding s).frame = s.frame := rfl
@[simp] theorem enterDecoding_acc (s : State) : (enterDecoding s).acc = 0#40 := rfl
@[simp] theorem enterDecoding_tStart (s : State) : (enterDecoding s).tStart = (sampleOf s).now := rfl
@[simp] theorem enterDecoding_err (s : State) : (enterDecoding s).err = s.err := rfl
@[simp] theorem enterDecoding_phase (s : State) : (enterDecoding s).phase = .bitLow := rfl
@[simp] theorem enterDecoding_bitcnt (s : State) : (enterDecoding s).bitcnt = 0#6 := rfl
@[simp] theorem enterDecoding_cfg (s : State) : (enterDecoding s).cfg = s.cfg := rfl
@[simp] theorem enterDecoding_inputs (s : State) : (enterDecoding s).inputs = s.inputs := rfl
@[simp] theorem enterDecoding_tick (s : State) : (enterDecoding s).tick = s.tick := rfl
@[simp] theorem enterDecoding_out (s : State) : (enterDecoding s).out = s.out := rfl

@[simp] theorem endBit_frame (b : BitVec 1) (s : State) : (endBit b s).frame = s.frame := rfl
@[simp] theorem endBit_acc (b : BitVec 1) (s : State) : (endBit b s).acc = shiftIn s.cfg.frameWidth s.acc b := rfl
@[simp] theorem endBit_tStart (b : BitVec 1) (s : State) : (endBit b s).tStart = (sampleOf s).now := rfl
@[simp] theorem endBit_err (b : BitVec 1) (s : State) : (endBit b s).err = s.err := rfl
@[simp] theorem endBit_phase (b : BitVec 1) (s : State) : (endBit b s).phase = if s.bitcnt.toNat + 1 = s.cfg.nBits then .validate else .bitLow := rfl
@[simp] theorem endBit_bitcnt (b : BitVec 1) (s : State) : (endBit b s).bitcnt = s.bitcnt + 1#6 := rfl
@[simp] theorem endBit_cfg (b : BitVec 1) (s : State) : (endBit b s).cfg = s.cfg := rfl
@[simp] theorem endBit_inputs (b : BitVec 1) (s : State) : (endBit b s).inputs = s.inputs := rfl
@[simp] theorem endBit_tick (b : BitVec 1) (s : State) : (endBit b s).tick = s.tick := rfl
@[simp] theorem endBit_out (b : BitVec 1) (s : State) : (endBit b s).out = s.out := rfl

@[simp] theorem receiveFrame_frame (f : FrameWord) (s : State) : (receiveFrame f s).frame = s.frame := rfl
@[simp] theorem receiveFrame_acc (f : FrameWord) (s : State) : (receiveFrame f s).acc = receive s.cfg f s.acc := rfl
@[simp] theorem receiveFrame_tStart (f : FrameWord) (s : State) : (receiveFrame f s).tStart = (sampleOf s).now := rfl
@[simp] theorem receiveFrame_err (f : FrameWord) (s : State) : (receiveFrame f s).err = s.err := rfl
@[simp] theorem receiveFrame_phase (f : FrameWord) (s : State) : (receiveFrame f s).phase = .validate := rfl
@[simp] theorem receiveFrame_bitcnt (f : FrameWord) (s : State) : (receiveFrame f s).bitcnt = BitVec.ofNat 6 s.cfg.nBits := rfl
@[simp] theorem receiveFrame_cfg (f : FrameWord) (s : State) : (receiveFrame f s).cfg = s.cfg := rfl
@[simp] theorem receiveFrame_inputs (f : FrameWord) (s : State) : (receiveFrame f s).inputs = s.inputs := rfl
@[simp] theorem receiveFrame_tick (f : FrameWord) (s : State) : (receiveFrame f s).tick = s.tick := rfl
@[simp] theorem receiveFrame_out (f : FrameWord) (s : State) : (receiveFrame f s).out = s.out := rfl

@[simp] theorem sampleOf_present (f : Inputs → Inputs) (s : State) : sampleOf (present f s) = f (sampleOf s) := rfl

end Sys2Proof.Machine
end

