-- ==== Sys2Proof/Laws/Ops.lean ====
section
/-! SUPPORT. What each shared operation can do, said once: the inversion lemmas that later proofs cite instead of
unfolding the operation. -/

namespace Sys2Proof.Machine

/-- Presenting a sample changes no output that does not hang on `unit`. -/
theorem ports_present (f : Inputs → Inputs) (u : TempUnit) (s : State) : ports u (present f s) = ports u s := rfl

/-- Closing a step keeps the registers it was given. -/
theorem finish_sameRegisters (s t : State) : SameRegisters (finish s t) t := ⟨rfl, rfl, rfl, rfl, rfl, rfl⟩

/-- Closing a step that began with a changed sample is closing one that began without the change, if `unit` is kept. -/
theorem finish_present (f : Inputs → Inputs) (s t : State) (h : (f (sampleOf s)).unit = (sampleOf s).unit) :
    finish (present f s) t = finish s t := by
  simp only [finish, sampleOf_present, present_inputs, present_tick, List.tail_cons, h, ports_present]

/-- The presented sample is used up with the step, so it is not seen in the result. -/
theorem finish_of_present (s t : State) (f : Inputs → Inputs) : finish s (present f t) = finish s t := rfl

/-- A wait ends in its fault at the deadline, at the awaited level before it, and otherwise changes nothing. -/
theorem waitRule_cases (failAt : Nat) (awaited : Level) (kind : ErrKind) (onEdge : State → State) (s : State) :
    (failAt ≤ elapsedOf s ∧ waitRule failAt awaited kind onEdge s = raise kind s) ∨
    (elapsedOf s < failAt ∧ (sampleOf s).lineIn = awaited ∧ waitRule failAt awaited kind onEdge s = onEdge s) ∨
    (elapsedOf s < failAt ∧ (sampleOf s).lineIn ≠ awaited ∧ waitRule failAt awaited kind onEdge s = s) := by
  unfold waitRule
  by_cases hd : failAt ≤ elapsedOf s
  · exact .inl ⟨hd, if_pos hd⟩
  · by_cases hl : (sampleOf s).lineIn = awaited
    · exact .inr (.inl ⟨by omega, hl, by rw [if_neg hd, if_pos hl]⟩)
    · exact .inr (.inr ⟨by omega, hl, by rw [if_neg hd, if_neg hl]⟩)

/-- The command decode of IDLE. -/
theorem idleRule_cases (s : State) :
    ((sampleOf s).cmd = cmdRead ∧ idleRule s = startAttempt s) ∨
    ((sampleOf s).cmd = cmdClrerr ∧ idleRule s = clearErr s) ∨
    ((sampleOf s).cmd ≠ cmdRead ∧ (sampleOf s).cmd ≠ cmdClrerr ∧ idleRule s = s) := by
  unfold idleRule
  by_cases hr : (sampleOf s).cmd = cmdRead
  · exact .inl ⟨hr, if_pos hr⟩
  · by_cases hc : (sampleOf s).cmd = cmdClrerr
    · exact .inr (.inl ⟨hc, by rw [if_neg hr, if_pos hc]⟩)
    · exact .inr (.inr ⟨hr, hc, by rw [if_neg hr, if_neg hc]⟩)

/-- START_LOW ends or goes on. -/
theorem startLowRule_cases (s : State) :
    (s.cfg.tStartLow ≤ elapsedOf s ∧ startLowRule s = enter .ackWaitLow s) ∨
    (elapsedOf s < s.cfg.tStartLow ∧ startLowRule s = s) := by
  unfold startLowRule
  by_cases h : s.cfg.tStartLow ≤ elapsedOf s
  · exact .inl ⟨h, if_pos h⟩
  · exact .inr ⟨by omega, if_neg h⟩

/-- BIT_HIGH: a symbol or a fault at the falling edge, the optional bound or nothing while the line is high. -/
theorem bitHighRule_cases (s : State) :
    (∃ b, (sampleOf s).lineIn = .low ∧ classify s.cfg (elapsedOf s) = some b ∧ bitHighRule s = endBit b s) ∨
    ((sampleOf s).lineIn = .low ∧ classify s.cfg (elapsedOf s) = none ∧ bitHighRule s = raise .readLengthInvalid s) ∨
    (∃ b, (sampleOf s).lineIn = .high ∧ s.cfg.bitHighMax = some b ∧ b ≤ elapsedOf s ∧
      bitHighRule s = raise .readLengthInvalid s) ∨
    ((sampleOf s).lineIn = .high ∧ (∀ b, s.cfg.bitHighMax = some b → elapsedOf s < b) ∧ bitHighRule s = s) := by
  cases hl : (sampleOf s).lineIn with
  | low =>
    cases hc : classify s.cfg (elapsedOf s) with
    | some b => exact .inl ⟨b, rfl, rfl, by simp only [bitHighRule, hl, fallingEdge, hc]⟩
    | none => exact .inr (.inl ⟨rfl, rfl, by simp only [bitHighRule, hl, fallingEdge, hc]⟩)
  | high =>
    cases hb : s.cfg.bitHighMax with
    | none => exact .inr (.inr (.inr ⟨rfl, by simp, by simp only [bitHighRule, hl, stillHigh, hb]⟩))
    | some b =>
      by_cases h : b ≤ elapsedOf s
      · exact .inr (.inr (.inl ⟨b, rfl, rfl, h, by simp only [bitHighRule, hl, stillHigh, hb, if_pos h]⟩))
      · refine .inr (.inr (.inr ⟨rfl, ?_, by simp only [bitHighRule, hl, stillHigh, hb, if_neg h]⟩))
        intro b' hb'
        cases hb'
        omega

/-- A shift of the 40-bit frame, in the concatenation form of R123: bit 39 goes, the symbol is bit 0. -/
theorem shiftIn_eq_or (a : FrameWord) (b : BitVec 1) : shiftIn 40 a b = (a <<< 1) ||| b.setWidth 40 := by
  have hb := b.isLt
  have h : (a <<< 1) ||| b.setWidth 40 = (a <<< 1) + b.setWidth 40 := by
    rw [← BitVec.add_eq_or_of_and_eq_zero]
    apply BitVec.eq_of_getLsbD_eq
    intro i hi
    rcases Nat.eq_zero_or_pos i with h | h
    · subst h; simp
    · simp [BitVec.getLsbD_of_ge b i (by omega)]
  rw [h]
  apply BitVec.eq_of_toNat_eq
  simp [shiftIn, Nat.shiftLeft_eq]
  omega

/-- After a symbol VALIDATE comes next if it was the `N_BITS`-th (R124). -/
theorem endBit_phase_of_last (b : BitVec 1) (s : State) (h : s.bitcnt.toNat + 1 = s.cfg.nBits) :
    (endBit b s).phase = .validate := if_pos h

/-- After a symbol that is not the `N_BITS`-th BIT_LOW comes next (R124). -/
theorem endBit_phase_of_earlier (b : BitVec 1) (s : State) (h : s.bitcnt.toNat + 1 ≠ s.cfg.nBits) :
    (endBit b s).phase = .bitLow := if_neg h

/-- VALIDATE promotes or raises. -/
theorem validateRule_cases (s : State) :
    (checksumOk s.acc = true ∧ validateRule s = { s with frame := s.acc, phase := .idle }) ∨
    (checksumOk s.acc = false ∧ validateRule s = raise .checksumInvalid s) := by
  unfold validateRule
  cases h : checksumOk s.acc
  · exact .inr ⟨rfl, if_neg (by simp)⟩
  · exact .inl ⟨rfl, if_pos rfl⟩

/-- Everything a phase's rule can do to a state, by the phase it starts in: nothing, a fault, or the one way on that
R74 gives the phase. -/
theorem phaseRule_cases (s : State) :
    phaseRule s = s ∨
    (s.phase = .idle ∧ ((sampleOf s).cmd = cmdRead ∧ phaseRule s = startAttempt s ∨
      (sampleOf s).cmd = cmdClrerr ∧ phaseRule s = clearErr s)) ∨
    (s.phase = .startLow ∧ phaseRule s = enter .ackWaitLow s) ∨
    (s.phase = .ackWaitLow ∧ (phaseRule s = raise .unacknowledgedTransmission s ∨ phaseRule s = enter .ackLow s)) ∨
    (s.phase = .ackLow ∧ (phaseRule s = raise .unacknowledgedTransmission s ∨ phaseRule s = enter .ackHigh s)) ∨
    (s.phase = .ackHigh ∧ (phaseRule s = raise .unacknowledgedTransmission s ∨ phaseRule s = enterDecoding s)) ∨
    (s.phase = .bitLow ∧ (phaseRule s = raise .pastReadIntervalLimit s ∨ phaseRule s = enter .bitHigh s)) ∨
    (s.phase = .bitHigh ∧ (phaseRule s = raise .readLengthInvalid s ∨ ∃ b, phaseRule s = endBit b s)) ∨
    (s.phase = .validate ∧ (checksumOk s.acc = false ∧ phaseRule s = raise .checksumInvalid s ∨
      checksumOk s.acc = true ∧ phaseRule s = { s with frame := s.acc, phase := .idle })) := by
  cases hp : s.phase
  case idle =>
    obtain ⟨c, h⟩ | ⟨c, h⟩ | ⟨-, -, h⟩ := idleRule_cases s
    · simp [phaseRule, hp, h, c]
    · simp [phaseRule, hp, h, c]
    · simp [phaseRule, hp, h]
  case startLow =>
    obtain ⟨-, h⟩ | ⟨-, h⟩ := startLowRule_cases s <;> simp [phaseRule, hp, h]
  case ackWaitLow =>
    obtain ⟨-, h⟩ | ⟨-, -, h⟩ | ⟨-, -, h⟩ :=
      waitRule_cases s.cfg.ackP1FailAt .low .unacknowledgedTransmission (enter .ackLow) s <;>
      simp [phaseRule, hp, ackWaitLowRule, h]
  case ackLow =>
    obtain ⟨-, h⟩ | ⟨-, -, h⟩ | ⟨-, -, h⟩ :=
      waitRule_cases s.cfg.ackP2FailAt .high .unacknowledgedTransmission (enter .ackHigh) s <;>
      simp [phaseRule, hp, ackLowRule, h]
  case ackHigh =>
    obtain ⟨-, h⟩ | ⟨-, -, h⟩ | ⟨-, -, h⟩ :=
      waitRule_cases s.cfg.ackP3FailAt .low .unacknowledgedTransmission enterDecoding s <;>
      simp [phaseRule, hp, ackHighRule, h]
  case bitLow =>
    obtain ⟨-, h⟩ | ⟨-, -, h⟩ | ⟨-, -, h⟩ :=
      waitRule_cases s.cfg.bitLowFailAt .high .pastReadIntervalLimit (enter .bitHigh) s <;>
      simp [phaseRule, hp, bitLowRule, h]
  case bitHigh =>
    obtain ⟨b, -, -, h⟩ | ⟨-, -, h⟩ | ⟨b, -, -, -, h⟩ | ⟨-, -, h⟩ := bitHighRule_cases s
    · simp only [phaseRule, hp, h]
      exact .inr (.inr (.inr (.inr (.inr (.inr (.inr (.inl ⟨trivial, .inr ⟨b, rfl⟩⟩)))))))
    all_goals simp [phaseRule, hp, h]
  case validate =>
    obtain ⟨c, h⟩ | ⟨c, h⟩ := validateRule_cases s <;> simp [phaseRule, hp, h, c]

/-- No rule writes the configuration (R61). -/
@[simp] theorem phaseRule_cfg (s : State) : (phaseRule s).cfg = s.cfg := by
  obtain h | ⟨-, ⟨-, h⟩ | ⟨-, h⟩⟩ | ⟨-, h⟩ | ⟨-, h | h⟩ | ⟨-, h | h⟩ | ⟨-, h | h⟩ | ⟨-, h | h⟩ | ⟨-, h | ⟨b, h⟩⟩ |
    ⟨-, ⟨-, h⟩ | ⟨-, h⟩⟩ := phaseRule_cases s <;> rw [h] <;> rfl

/-- A step with a rule in it: what it answers. -/
theorem stepWith_next (rule : State → State) (s : State) (h : (sampleOf s).rst = false) :
    stepWith rule s = .next (finish s (rule s)) := by simp [stepWith, h]

/-- A step with an active `rst` resets, whatever its rule is. -/
theorem stepWith_reset (rule : State → State) (s : State) (h : (sampleOf s).rst = true) :
    stepWith rule s = .next (finish s (resetRegs s)) := by simp [stepWith, h]

/-- A command in IDLE runs its own rule on the sample that carries it. -/
theorem command_idle (code : BitVec 2) (effect : State → State) (s : State) (h : s.phase = .idle) :
    command code effect s = .next (finish (present (fun i => { i with rst := false, cmd := code }) s)
      (effect (present (fun i => { i with rst := false, cmd := code }) s))) := by
  simp [command, stepOf, h]

/-- A command in any other phase is the phase's own step. -/
theorem command_busy (code : BitVec 2) (effect : State → State) (s : State) (h : s.phase ≠ .idle) :
    command code effect s = .next (finish (present (fun i => { i with rst := false, cmd := code }) s)
      (phaseRule (present (fun i => { i with rst := false, cmd := code }) s))) := by
  simp [command, stepOf, h]

/-- A read of an output answers at once and changes only what is shown. -/
theorem readPort_next (f : Outputs → Outputs) (s : State) : readPort f s = .next (showing f s) := rfl

end Sys2Proof.Machine
end

