-- ==== Sys2Proof/Laws/PerInstr.lean ====
section
/-! SUPPORT. Statements for all operations, made for each of them: every code fits the place it stands on. -/

/-- The code of an operation fits the width of its place (30_encoding.md R70, R71). -/
def Sys2Proof.Laws.EncodeFits.Statement (i : Sys2Proof.Instr) : Prop :=
  (Sys2Proof.encode i).bits < 2 ^ Sys2Proof.placeWidth (Sys2Proof.encode i).place

theorem Sys2Proof.Laws.EncodeFits.nop : Sys2Proof.Laws.EncodeFits.Statement .nop := by
  show _ < _; decide
theorem Sys2Proof.Laws.EncodeFits.read : Sys2Proof.Laws.EncodeFits.Statement .read := by
  show _ < _; decide
theorem Sys2Proof.Laws.EncodeFits.clrerr : Sys2Proof.Laws.EncodeFits.Statement .clrerr := by
  show _ < _; decide
theorem Sys2Proof.Laws.EncodeFits.cmdReserved : Sys2Proof.Laws.EncodeFits.Statement .cmdReserved := by
  show _ < _; decide
theorem Sys2Proof.Laws.EncodeFits.cmdIgnored (cmd : BitVec 2) : Sys2Proof.Laws.EncodeFits.Statement (.cmdIgnored cmd) :=
  cmd.isLt
theorem Sys2Proof.Laws.EncodeFits.reset : Sys2Proof.Laws.EncodeFits.Statement .reset := by
  show _ < _; decide
theorem Sys2Proof.Laws.EncodeFits.stepIdle : Sys2Proof.Laws.EncodeFits.Statement .stepIdle := by
  show _ < _; decide
theorem Sys2Proof.Laws.EncodeFits.stepStartLow : Sys2Proof.Laws.EncodeFits.Statement .stepStartLow := by
  show _ < _; decide
theorem Sys2Proof.Laws.EncodeFits.stepAckWaitLow : Sys2Proof.Laws.EncodeFits.Statement .stepAckWaitLow := by
  show _ < _; decide
theorem Sys2Proof.Laws.EncodeFits.stepAckLow : Sys2Proof.Laws.EncodeFits.Statement .stepAckLow := by
  show _ < _; decide
theorem Sys2Proof.Laws.EncodeFits.stepAckHigh : Sys2Proof.Laws.EncodeFits.Statement .stepAckHigh := by
  show _ < _; decide
theorem Sys2Proof.Laws.EncodeFits.stepBitLow : Sys2Proof.Laws.EncodeFits.Statement .stepBitLow := by
  show _ < _; decide
theorem Sys2Proof.Laws.EncodeFits.stepBitHigh : Sys2Proof.Laws.EncodeFits.Statement .stepBitHigh := by
  show _ < _; decide
theorem Sys2Proof.Laws.EncodeFits.stepValidate : Sys2Proof.Laws.EncodeFits.Statement .stepValidate := by
  show _ < _; decide
theorem Sys2Proof.Laws.EncodeFits.errNone : Sys2Proof.Laws.EncodeFits.Statement .errNone := by
  show _ < _; decide
theorem Sys2Proof.Laws.EncodeFits.errPastReadIntervalLimit : Sys2Proof.Laws.EncodeFits.Statement .errPastReadIntervalLimit := by
  show _ < _; decide
theorem Sys2Proof.Laws.EncodeFits.errReadLengthInvalid : Sys2Proof.Laws.EncodeFits.Statement .errReadLengthInvalid := by
  show _ < _; decide
theorem Sys2Proof.Laws.EncodeFits.errChecksumInvalid : Sys2Proof.Laws.EncodeFits.Statement .errChecksumInvalid := by
  show _ < _; decide
theorem Sys2Proof.Laws.EncodeFits.errUnacknowledgedTransmission : Sys2Proof.Laws.EncodeFits.Statement .errUnacknowledgedTransmission := by
  show _ < _; decide
theorem Sys2Proof.Laws.EncodeFits.errReserved (code : BitVec 3) : Sys2Proof.Laws.EncodeFits.Statement (.errReserved code) :=
  code.isLt
theorem Sys2Proof.Laws.EncodeFits.frame (f : Sys2Proof.FrameWord) : Sys2Proof.Laws.EncodeFits.Statement (.frame f) :=
  f.isLt
theorem Sys2Proof.Laws.EncodeFits.geterr : Sys2Proof.Laws.EncodeFits.Statement .geterr := by
  show _ < _; decide
theorem Sys2Proof.Laws.EncodeFits.getframe : Sys2Proof.Laws.EncodeFits.Statement .getframe := by
  show _ < _; decide
theorem Sys2Proof.Laws.EncodeFits.humraw : Sys2Proof.Laws.EncodeFits.Statement .humraw := by
  show _ < _; decide
theorem Sys2Proof.Laws.EncodeFits.temprawCkraw : Sys2Proof.Laws.EncodeFits.Statement .temprawCkraw := by
  show _ < _; decide
theorem Sys2Proof.Laws.EncodeFits.tempsignMag : Sys2Proof.Laws.EncodeFits.Statement .tempsignMag := by
  show _ < _; decide
theorem Sys2Proof.Laws.EncodeFits.gethum : Sys2Proof.Laws.EncodeFits.Statement .gethum := by
  show _ < _; decide
theorem Sys2Proof.Laws.EncodeFits.gettempC : Sys2Proof.Laws.EncodeFits.Statement .gettempC := by
  show _ < _; decide
theorem Sys2Proof.Laws.EncodeFits.gettempF : Sys2Proof.Laws.EncodeFits.Statement .gettempF := by
  show _ < _; decide
theorem Sys2Proof.Laws.EncodeFits.durShort (d : Sys2Proof.Micros) : Sys2Proof.Laws.EncodeFits.Statement (.durShort d) :=
  d.isLt
theorem Sys2Proof.Laws.EncodeFits.sym0 (d : Sys2Proof.Micros) : Sys2Proof.Laws.EncodeFits.Statement (.sym0 d) :=
  d.isLt
theorem Sys2Proof.Laws.EncodeFits.sym1 (d : Sys2Proof.Micros) : Sys2Proof.Laws.EncodeFits.Statement (.sym1 d) :=
  d.isLt
theorem Sys2Proof.Laws.EncodeFits.durLong (d : Sys2Proof.Micros) : Sys2Proof.Laws.EncodeFits.Statement (.durLong d) :=
  d.isLt
theorem Sys2Proof.Laws.EncodeFits.low : Sys2Proof.Laws.EncodeFits.Statement .low := by
  show _ < _; decide
theorem Sys2Proof.Laws.EncodeFits.high : Sys2Proof.Laws.EncodeFits.Statement .high := by
  show _ < _; decide
theorem Sys2Proof.Laws.EncodeFits.input : Sys2Proof.Laws.EncodeFits.Statement .input := by
  show _ < _; decide
theorem Sys2Proof.Laws.EncodeFits.output : Sys2Proof.Laws.EncodeFits.Statement .output := by
  show _ < _; decide
theorem Sys2Proof.Laws.EncodeFits.celsius : Sys2Proof.Laws.EncodeFits.Statement .celsius := by
  show _ < _; decide
theorem Sys2Proof.Laws.EncodeFits.fahrenheit : Sys2Proof.Laws.EncodeFits.Statement .fahrenheit := by
  show _ < _; decide
end

