-- ==== Sys2Proof/Laws/Step.lean ====
section
/-! SUPPORT. What one step of the block is: the fetched code always decodes, and the step is the reset or the rule of
the phase it starts in. -/

namespace Sys2Proof.Machine

/-- The code of a phase selects that phase's step (R74). -/
theorem decode_phaseCode (ph : Phase) :
    decode ⟨.phase, (phaseCode ph).toNat⟩ = .instr (decodePhase (phaseCode ph).toNat) := by
  cases ph <;> rfl

/-- The step of the block, without the fetch: reset, or the phase's rule. -/
theorem step_eq (s : State) :
    step s = .next (finish s (if (sampleOf s).rst = true then resetRegs s else phaseRule s)) := by
  cases hr : (sampleOf s).rst
  · cases hp : s.phase <;>
      simp [step, fetchWord, hr, hp, phaseCode, decode, placeWidth, decodeFitting, decodePhase, exec, execStepIdle,
        execStepStartLow, execStepAckWaitLow, execStepAckLow, execStepAckHigh, execStepBitLow, execStepBitHigh,
        execStepValidate, stepWith, phaseRule]
  · simp [step, fetchWord, hr, decode, placeWidth, decodeFitting, exec, execReset, stepOf, finish_present]
    rfl

/-- A step without reset. -/
theorem step_of_running (s : State) (h : (sampleOf s).rst = false) :
    step s = .next (finish s (phaseRule s)) := by simp [step_eq, h]

/-- A step with reset. -/
theorem step_of_reset (s : State) (h : (sampleOf s).rst = true) :
    step s = .next (finish s (resetRegs s)) := by simp [step_eq, h]

/-- A step keeps the configuration (R61). -/
theorem step_cfg (s t : State) (h : step s = .next t) : t.cfg = s.cfg := by
  rw [step_eq] at h
  cases h
  cases (sampleOf s).rst <;> simp

/-- A run whose first step is known goes on from there. -/
theorem run_of_step (n : Nat) (s t : State) (h : step s = .next t) :
    Host.Core.run core (n + 1) s = Host.Core.run core n t := by
  have h' : core.step s = .next t := h
  simp only [Host.Core.run, h']

/-- A run answers a next state, however long: no step stops (R205). -/
theorem run_total (n : Nat) : ∀ s : State, ∃ t : State, Host.Core.run core n s = .next t := by
  induction n with
  | zero => exact fun s => ⟨s, rfl⟩
  | succ n ih =>
    intro s
    obtain ⟨t, ht⟩ := ih (finish s (if (sampleOf s).rst = true then resetRegs s else phaseRule s))
    exact ⟨t, (run_of_step n s _ (step_eq s)).trans ht⟩

end Sys2Proof.Machine
end

