-- ==== Sys2Proof/Laws/Run.lean ====
section
/-! SUPPORT. Runs of several steps: how they join, what the samples of an ideally sampled run are, and how long a block
stays as it is. -/

namespace Sys2Proof.Machine

/-- A run of `m + n` steps is the run of `n` steps from where the first `m` lead. -/
theorem run_add (m n : Nat) : ∀ s t : State, Host.Core.run core m s = .next t →
    Host.Core.run core (m + n) s = Host.Core.run core n t := by
  induction m with
  | zero =>
    intro s t h
    cases h
    rw [Nat.zero_add]
  | succ m ih =>
    intro s t h
    rw [run_of_step m s _ (step_eq s)] at h
    rw [Nat.succ_add, run_of_step (m + n) s _ (step_eq s)]
    exact ih _ t h

/-- A run keeps the configuration (R61). -/
theorem run_cfg (n : Nat) : ∀ s t : State, Host.Core.run core n s = .next t → t.cfg = s.cfg := by
  induction n with
  | zero =>
    intro s t h
    cases h
    rfl
  | succ n ih =>
    intro s t h
    rw [run_of_step n s _ (step_eq s)] at h
    exact (ih _ t h).trans (step_cfg s _ (step_eq s))

/-- The sample of a state whose samples begin with `i`. -/
theorem sampleOf_of_inputs {s : State} {i : Inputs} {l : List Inputs} (h : s.inputs = i :: l) : sampleOf s = i := by
  simp only [sampleOf, h]

/-- The samples of an ideally sampled stretch: none resets, and the counter advances by one from each to the next. -/
theorem IdealFrom_get {l : List Inputs} : ∀ {n : Micros} {k : Nat}, IdealFrom n (l.take k) → ∀ j < k, ∀ i rest,
    l.drop j = i :: rest → i.rst = false ∧ i.now = n + BitVec.ofNat 32 j := by
  induction l with
  | nil => intro n k _ j _ i rest h; simp at h
  | cons a l ih =>
    intro n k hi j hj i rest h
    cases k with
    | zero => omega
    | succ k =>
      simp only [List.take_succ_cons, IdealFrom] at hi
      cases j with
      | zero =>
        simp only [List.drop_zero, List.cons.injEq] at h
        obtain ⟨rfl, -⟩ := h
        exact ⟨hi.1, by simpa using hi.2.1⟩
      | succ j =>
        obtain ⟨hr, hn⟩ := ih hi.2.2 j (by omega) i rest (by simpa using h)
        refine ⟨hr, hn.trans ?_⟩
        rw [BitVec.add_assoc]
        congr 1
        apply BitVec.eq_of_toNat_eq
        simp [BitVec.toNat_add, Nat.add_comm]

/-- `e` is the distance of the sample's counter from the start of the wait, if the counter can tell it. -/
theorem elapsedOf_of_now {s : State} {m : Nat} (hm : m < 2 ^ 32) (hw : m < 2 ^ s.cfg.nowWidth)
    (h : (sampleOf s).now = s.tStart + BitVec.ofNat 32 m) : elapsedOf s = m := by
  have h32 : ((sampleOf s).now - s.tStart).toNat = m := by
    rw [h, BitVec.toNat_sub, BitVec.toNat_add, BitVec.toNat_ofNat]
    have := s.tStart.isLt
    omega
  rw [elapsedOf, elapsed, h32, Nat.mod_eq_of_lt hw]

/-- Equality of registers is transitive. -/
theorem SameRegisters.trans {s t u : State} (h : SameRegisters s t) (g : SameRegisters t u) : SameRegisters s u :=
  ⟨h.1.trans g.1, h.2.1.trans g.2.1, h.2.2.1.trans g.2.2.1, h.2.2.2.1.trans g.2.2.2.1, h.2.2.2.2.1.trans g.2.2.2.2.1,
    h.2.2.2.2.2.trans g.2.2.2.2.2⟩

/-- A block that does nothing in each of the next `k` samples keeps its registers through them. -/
theorem run_stay (k : Nat) : ∀ s : State,
    (∀ j < k, ∀ u : State, SameRegisters s u → u.cfg = s.cfg → u.inputs = s.inputs.drop j →
      (sampleOf u).rst = false ∧ phaseRule u = u) →
    ∃ t : State, Host.Core.run core k s = .next t ∧ SameRegisters s t ∧ t.cfg = s.cfg ∧ t.inputs = s.inputs.drop k := by
  induction k with
  | zero => exact fun s _ => ⟨s, rfl, ⟨rfl, rfl, rfl, rfl, rfl, rfl⟩, rfl, rfl⟩
  | succ k ih =>
    intro s h
    obtain ⟨hr, he⟩ := h 0 (by omega) s ⟨rfl, rfl, rfl, rfl, rfl, rfl⟩ rfl rfl
    have hstep : step s = .next (finish s s) := by rw [step_of_running s hr, he]
    obtain ⟨t, ht, hs, hc, hi⟩ :=
      ih (finish s s) (fun j hj u hu huc hui => h (j + 1) (by omega) u hu huc (by simpa using hui))
    exact ⟨t, (run_of_step k s _ hstep).trans ht, hs, hc, by simpa using hi⟩

/-- An initial part of an ideally sampled stretch is ideally sampled. -/
theorem IdealFrom_take {l : List Inputs} : ∀ {n : Micros} {k m : Nat}, m ≤ k → IdealFrom n (l.take k) →
    IdealFrom n (l.take m) := by
  induction l with
  | nil => intro n k m _ _; simp [IdealFrom]
  | cons a l ih =>
    intro n k m h hi
    cases m with
    | zero => simp [IdealFrom]
    | succ m =>
      cases k with
      | zero => omega
      | succ k =>
        simp only [List.take_succ_cons, IdealFrom] at *
        exact ⟨hi.1, hi.2.1, ih (by omega) hi.2.2⟩

/-- The rest of an ideally sampled stretch is ideally sampled. -/
theorem IdealFrom_drop {l : List Inputs} : ∀ {n : Micros} {k m : Nat}, m ≤ k → IdealFrom n (l.take k) →
    IdealFrom (n + BitVec.ofNat 32 m) ((l.drop m).take (k - m)) := by
  induction l with
  | nil => intro n k m _ _; simp [IdealFrom]
  | cons a l ih =>
    intro n k m h hi
    cases m with
    | zero => simpa using hi
    | succ m =>
      cases k with
      | zero => omega
      | succ k =>
        simp only [List.take_succ_cons, IdealFrom] at *
        have := ih (m := m) (by omega) hi.2.2
        simp only [List.drop_succ_cons, Nat.add_sub_add_right]
        rw [BitVec.add_assoc] at this
        convert this using 2
        apply BitVec.eq_of_toNat_eq
        simp [BitVec.toNat_add, Nat.add_comm]

/-- A list that is long enough has a sample at the index. -/
theorem drop_eq_cons {l : List Inputs} {j : Nat} (h : j < l.length) : ∃ i rest, l.drop j = i :: rest ∧ i ∈ l :=
  ⟨l[j], l.drop (j + 1), by simp, by simp⟩

/-- In an ideally sampled stretch, the step after `m` steps that kept the registers has `e` = `m + 1`. -/
theorem step_in_ideal (k m : Nat) (s t : State) (hk : k < 2 ^ 32) (hw : k < 2 ^ s.cfg.nowWidth) (hm : m < k)
    (hl : k ≤ s.inputs.length) (hid : IdealFrom (s.tStart + 1#32) (s.inputs.take k)) (hs : SameRegisters s t)
    (hc : t.cfg = s.cfg) (hi : t.inputs = s.inputs.drop m) :
    elapsedOf t = m + 1 ∧ step t = .next (finish t (phaseRule t)) ∧
      (sampleOf t).now = s.tStart + BitVec.ofNat 32 (m + 1) := by
  obtain ⟨i, rest, hd, -⟩ := drop_eq_cons (l := s.inputs) (j := m) (by omega)
  have hsm := sampleOf_of_inputs (hi.trans hd)
  obtain ⟨hr, hn⟩ := IdealFrom_get hid m hm i rest hd
  have hn' : (sampleOf t).now = s.tStart + BitVec.ofNat 32 (m + 1) := by
    rw [hsm, hn, BitVec.add_assoc]
    congr 1
    apply BitVec.eq_of_toNat_eq
    simp [BitVec.toNat_add, Nat.add_comm]
  exact ⟨elapsedOf_of_now (by omega) (by rw [hc]; omega) (by rw [hn', hs.2.2.1]),
    step_of_running t (by rw [hsm, hr]), hn'⟩

end Sys2Proof.Machine
end

