-- ==== Sys2Proof/Tests/Slice0.lean ====
section
/-! SUPPORT. Tests. The expected values are those of spec/95_test_vectors.md (the row is named in each comment) and of
the tables of 30_encoding.md; the witnesses at the end meet the hypotheses of the statements. -/

namespace Sys2Proof.Tests

open Sys2Proof Sys2Proof.Machine

/-! ### Builders -/

/-- A sample without reset. -/
def sample (cmd : BitVec 2) (l : Level) (now : Nat) : Inputs := ⟨false, cmd, .celsius, l, BitVec.ofNat 32 now⟩

/-- A block with the documented parameters and one sample in front of it. -/
def st (ph : Phase) (tStart acc bitcnt frame : Nat) (err : ErrKind) (i : Inputs) : State where
  frame := BitVec.ofNat 40 frame
  acc := BitVec.ofNat 40 acc
  tStart := BitVec.ofNat 32 tStart
  err := err
  phase := ph
  bitcnt := BitVec.ofNat 6 bitcnt
  cfg := Config.params
  inputs := [i]
  tick := 0
  out := Outputs.afterReset

/-- The documented parameters with a bound of 150 µs on the high phase, as in V90 to V92. -/
def boundedParams : Params := { Config.params with bitHighMax := some 150 }

/-- A block in BIT_HIGH with that bound. -/
def bounded (i : Inputs) : State := { st .bitHigh 200 1 5 0x01F400C8BD .none i with cfg := boundedParams }

/-- The documented parameters for a counter of 12 bits, the narrowest of R6. -/
def narrowParams : Params := { Config.params with nowWidth := 12 }

/-- The six registers, in the order of the vectors' columns. -/
structure Regs where
  phase : Phase
  tStart : Nat
  acc : Nat
  bitcnt : Nat
  frame : Nat
  err : ErrKind
  deriving DecidableEq, Repr

/-- The registers a step leaves. -/
def regs (o : Host.Outcome State Fault Refusal) : Option Regs :=
  match o with
  | .next t => some ⟨t.phase, t.tStart.toNat, t.acc.toNat, t.bitcnt.toNat, t.frame.toNat, t.err⟩
  | .fault _ | .refused _ => none

/-- What the outputs show after an operation. -/
def shown {α : Type} (f : Outputs → α) (o : Host.Outcome State Fault Refusal) : Option α :=
  match o with
  | .next t => some (f t.out)
  | .fault _ | .refused _ => none

/-- An idle block that holds the given frame. -/
def holding (frame : Nat) : State := st .idle 0 0 0 frame .none (sample 0 .high 0)

/-! ### Well-formedness: an ill-formed term for each check -/

theorem test_reserved_code_below_five_is_refused : (Instr.errReserved 0b100#3).wellFormed = false := by decide
theorem test_short_duration_of_20_is_refused : (Instr.durShort 20#32).wellFormed = false := by decide
theorem test_symbol0_of_19_is_refused : (Instr.sym0 19#32).wellFormed = false := by decide
theorem test_symbol0_of_50_is_refused : (Instr.sym0 50#32).wellFormed = false := by decide
theorem test_symbol1_of_49_is_refused : (Instr.sym1 49#32).wellFormed = false := by decide
theorem test_symbol1_of_101_is_refused : (Instr.sym1 101#32).wellFormed = false := by decide
theorem test_long_duration_of_100_is_refused : (Instr.durLong 100#32).wellFormed = false := by decide

/-! ### Decoding: the codes of 30_encoding.md, written out, each on its place -/

theorem test_decode_cmd :
    decode ⟨.cmd, 0b00⟩ = .instr .nop ∧
    decode ⟨.cmd, 0b01⟩ = .instr .read ∧
    decode ⟨.cmd, 0b10⟩ = .instr .clrerr ∧
    decode ⟨.cmd, 0b11⟩ = .instr .cmdReserved ∧
    decode ⟨.cmdBusy, 0b10⟩ = .instr (.cmdIgnored 0b10#2) := by decide

theorem test_decode_rst :
    decode ⟨.rst, 0b1⟩ = .instr .reset := by decide

theorem test_decode_phase :
    decode ⟨.phase, 0b000⟩ = .instr .stepIdle ∧
    decode ⟨.phase, 0b001⟩ = .instr .stepStartLow ∧
    decode ⟨.phase, 0b010⟩ = .instr .stepAckWaitLow ∧
    decode ⟨.phase, 0b011⟩ = .instr .stepAckLow ∧
    decode ⟨.phase, 0b100⟩ = .instr .stepAckHigh ∧
    decode ⟨.phase, 0b101⟩ = .instr .stepBitLow ∧
    decode ⟨.phase, 0b110⟩ = .instr .stepBitHigh ∧
    decode ⟨.phase, 0b111⟩ = .instr .stepValidate := by decide

theorem test_decode_err :
    decode ⟨.err, 0b000⟩ = .instr .errNone ∧
    decode ⟨.err, 0b001⟩ = .instr .errPastReadIntervalLimit ∧
    decode ⟨.err, 0b010⟩ = .instr .errReadLengthInvalid ∧
    decode ⟨.err, 0b011⟩ = .instr .errChecksumInvalid ∧
    decode ⟨.err, 0b100⟩ = .instr .errUnacknowledgedTransmission ∧
    decode ⟨.err, 0b101⟩ = .instr (.errReserved 0b101#3) ∧
    decode ⟨.err, 0b110⟩ = .instr (.errReserved 0b110#3) ∧
    decode ⟨.err, 0b111⟩ = .instr (.errReserved 0b111#3) := by decide

theorem test_decode_frame :
    decode ⟨.frame, 0b0000000111110100000000001100100010111101⟩ = .instr (.frame 0x01F400C8BD#40) := by decide

theorem test_decode_dur :
    decode ⟨.dur, 0⟩ = .instr (.durShort 0#32) ∧
    decode ⟨.dur, 19⟩ = .instr (.durShort 19#32) ∧
    decode ⟨.dur, 20⟩ = .instr (.sym0 20#32) ∧
    decode ⟨.dur, 49⟩ = .instr (.sym0 49#32) ∧
    decode ⟨.dur, 50⟩ = .instr (.sym1 50#32) ∧
    decode ⟨.dur, 100⟩ = .instr (.sym1 100#32) ∧
    decode ⟨.dur, 101⟩ = .instr (.durLong 101#32) ∧
    decode ⟨.dur, 0xFFFFFFFF⟩ = .instr (.durLong 0xFFFFFFFF#32) := by decide

theorem test_decode_one_bit_codes :
    decode ⟨.level, 0b0⟩ = .instr .low ∧
    decode ⟨.level, 0b1⟩ = .instr .high ∧
    decode ⟨.dir, 0b0⟩ = .instr .input ∧
    decode ⟨.dir, 0b1⟩ = .instr .output ∧
    decode ⟨.unit, 0b0⟩ = .instr .celsius ∧
    decode ⟨.unit, 0b1⟩ = .instr .fahrenheit := by decide

theorem test_decode_accessors :
    decode ⟨.port .errOut, 0⟩ = .instr .geterr ∧
    decode ⟨.port .frameOut, 0⟩ = .instr .getframe ∧
    decode ⟨.port .humRaw, 0⟩ = .instr .humraw ∧
    decode ⟨.port .tempRawCkRaw, 0⟩ = .instr .temprawCkraw ∧
    decode ⟨.port .tempSignMag, 0⟩ = .instr .tempsignMag ∧
    decode ⟨.port .humOut, 0⟩ = .instr .gethum ∧
    decode ⟨.port .tempOut, 0b0⟩ = .instr .gettempC ∧
    decode ⟨.port .tempOut, 0b1⟩ = .instr .gettempF := by decide

theorem test_codes_that_are_none_are_rejected :
    decode ⟨.cmd, 0b100⟩ = .rejected (.tooWide .cmd 4) ∧ decode ⟨.rst, 0b0⟩ = .rejected .resetInactive ∧
    decode ⟨.dur, 2 ^ 32⟩ = .rejected (.tooWide .dur (2 ^ 32)) := by decide

theorem test_table_words :
    decodeTableWord 8 0b011 = some .stepAckLow ∧ decodeTableWord 32 49 = some (.sym0 49#32) ∧
    decodeTableWord 40 0x01F400C8BD = some (.frame 0x01F400C8BD#40) ∧ decodeTableWord 8 8 = none := by decide

/-! ### One step of each operation, from spec/95_test_vectors.md section 2 -/

theorem test_nop_V1 :
    regs (exec .nop (st .idle 6891 0x01F400C8BD 40 0x01F400C8BD .checksumInvalid (sample 0 .low 7000))) =
        some ⟨.idle, 6891, 0x01F400C8BD, 40, 0x01F400C8BD, .checksumInvalid⟩ := by decide

theorem test_read_V2 :
    regs (exec .read (st .idle 6891 0x01F400C8BD 40 0x01F400C8BD .checksumInvalid (sample 1 .low 123456))) =
        some ⟨.startLow, 123456, 0x01F400C8BD, 40, 0x01F400C8BD, .checksumInvalid⟩ ∧
    regs (step (st .idle 6891 0x01F400C8BD 40 0x01F400C8BD .checksumInvalid (sample 1 .low 123456))) =
        some ⟨.startLow, 123456, 0x01F400C8BD, 40, 0x01F400C8BD, .checksumInvalid⟩ := by decide

theorem test_read_while_busy_V9 :
    regs (exec .read (st .bitLow 100 0x0000000005 3 0x01F400C8BD .checksumInvalid (sample 1 .low 120))) =
        some ⟨.bitLow, 100, 0x0000000005, 3, 0x01F400C8BD, .checksumInvalid⟩ := by decide

theorem test_clrerr_V3 :
    regs (exec .clrerr (st .idle 6891 0x01F400C8BD 40 0x01F400C8BD .checksumInvalid (sample 2 .low 7000))) =
        some ⟨.idle, 6891, 0x01F400C8BD, 40, 0x01F400C8BD, .none⟩ ∧
    regs (step (st .idle 6891 0x01F400C8BD 40 0x01F400C8BD .checksumInvalid (sample 2 .low 7000))) =
        some ⟨.idle, 6891, 0x01F400C8BD, 40, 0x01F400C8BD, .none⟩ := by decide

theorem test_clrerr_while_busy_V8 :
    regs (exec .clrerr (st .bitLow 100 0x0000000005 3 0x01F400C8BD .checksumInvalid (sample 2 .low 120))) =
        some ⟨.bitLow, 100, 0x0000000005, 3, 0x01F400C8BD, .checksumInvalid⟩ := by decide

theorem test_cmdReserved_V4 :
    regs (exec .cmdReserved (st .idle 6891 0x01F400C8BD 40 0x01F400C8BD .checksumInvalid (sample 3 .low 7000))) =
        some ⟨.idle, 6891, 0x01F400C8BD, 40, 0x01F400C8BD, .checksumInvalid⟩ ∧
    regs (step (st .idle 6891 0x01F400C8BD 40 0x01F400C8BD .checksumInvalid (sample 3 .low 7000))) =
        some ⟨.idle, 6891, 0x01F400C8BD, 40, 0x01F400C8BD, .checksumInvalid⟩ := by decide

theorem test_cmdIgnored_V8_V9 :
    regs (exec (.cmdIgnored 0b10#2) (st .bitLow 100 0x0000000005 3 0x01F400C8BD .checksumInvalid (sample 2 .low 120))) =
        some ⟨.bitLow, 100, 0x0000000005, 3, 0x01F400C8BD, .checksumInvalid⟩ ∧
    regs (exec (.cmdIgnored 0b01#2) (st .bitLow 100 0x0000000005 3 0x01F400C8BD .checksumInvalid (sample 1 .low 120))) =
        some ⟨.bitLow, 100, 0x0000000005, 3, 0x01F400C8BD, .checksumInvalid⟩ := by decide

theorem test_reset_V5 :
    regs (exec .reset (st .idle 6891 0x01F400C8BD 40 0x01F400C8BD .checksumInvalid { sample 0 .low 7000 with rst := true })) =
        some ⟨.idle, 0, 0x0000000000, 0, 0x0000000000, .none⟩ ∧
    regs (step (st .idle 6891 0x01F400C8BD 40 0x01F400C8BD .checksumInvalid { sample 3 .high 7000 with rst := true })) =
        some ⟨.idle, 0, 0x0000000000, 0, 0x0000000000, .none⟩ := by decide

theorem test_reset_V6 :
    regs (exec .reset (st .bitHigh 200 0x0000000015 5 0x01F400C8BD .checksumInvalid { sample 0 .low 230 with rst := true })) =
        some ⟨.idle, 0, 0x0000000000, 0, 0x0000000000, .none⟩ ∧
    regs (step (st .bitHigh 200 0x0000000015 5 0x01F400C8BD .checksumInvalid { sample 1 .low 230 with rst := true })) =
        some ⟨.idle, 0, 0x0000000000, 0, 0x0000000000, .none⟩ := by decide

theorem test_stepIdle_V10 :
    regs (exec .stepIdle (st .idle 0 0x0000000000 0 0x0000000000 .none (sample 2 .low 5))) =
        some ⟨.idle, 0, 0x0000000000, 0, 0x0000000000, .none⟩ ∧
    regs (exec .stepIdle (st .idle 6891 0x01F400C8BD 40 0x01F400C8BD .checksumInvalid (sample 2 .low 7000))) =
        some ⟨.idle, 6891, 0x01F400C8BD, 40, 0x01F400C8BD, .none⟩ := by decide

theorem test_stepStartLow_V21_V22 :
    regs (step (st .startLow 1000 0x0000000000 0 0x01F400C8BD .checksumInvalid (sample 0 .low 2999))) =
        some ⟨.startLow, 1000, 0x0000000000, 0, 0x01F400C8BD, .checksumInvalid⟩ ∧
    regs (step (st .startLow 1000 0x0000000000 0 0x01F400C8BD .checksumInvalid (sample 0 .low 3000))) =
        some ⟨.ackWaitLow, 3000, 0x0000000000, 0, 0x01F400C8BD, .checksumInvalid⟩ := by decide

theorem test_stepStartLow_wrap_V25 :
    regs (exec .stepStartLow (st .startLow 4294966272 0x0000000000 0 0x0000000000 .none (sample 0 .low 976))) =
        some ⟨.ackWaitLow, 976, 0x0000000000, 0, 0x0000000000, .none⟩ := by decide

theorem test_stepAckWaitLow_V32_V33 :
    regs (step (st .ackWaitLow 3000 0x0000000000 0 0x01F400C8BD .none (sample 0 .low 3039))) =
        some ⟨.ackLow, 3039, 0x0000000000, 0, 0x01F400C8BD, .none⟩ ∧
    regs (step (st .ackWaitLow 3000 0x0000000000 0 0x01F400C8BD .none (sample 0 .high 3039))) =
        some ⟨.ackWaitLow, 3000, 0x0000000000, 0, 0x01F400C8BD, .none⟩ := by decide

theorem test_stepAckWaitLow_V34 :
    regs (exec .stepAckWaitLow (st .ackWaitLow 3000 0x0000000000 0 0x01F400C8BD .none (sample 0 .low 3040))) =
        some ⟨.idle, 3000, 0x0000000000, 0, 0x01F400C8BD, .unacknowledgedTransmission⟩ := by decide

theorem test_stepAckLow_V41_V42 :
    regs (step (st .ackLow 5000 0x0000000000 0 0x01F400C8BD .none (sample 0 .high 5099))) =
        some ⟨.ackHigh, 5099, 0x0000000000, 0, 0x01F400C8BD, .none⟩ ∧
    regs (step (st .ackLow 5000 0x0000000000 0 0x01F400C8BD .none (sample 0 .low 5099))) =
        some ⟨.ackLow, 5000, 0x0000000000, 0, 0x01F400C8BD, .none⟩ := by decide

theorem test_stepAckLow_V43 :
    regs (exec .stepAckLow (st .ackLow 5000 0x0000000000 0 0x01F400C8BD .none (sample 0 .high 5100))) =
        some ⟨.idle, 5000, 0x0000000000, 0, 0x01F400C8BD, .unacknowledgedTransmission⟩ := by decide

theorem test_stepAckHigh_V51_V52 :
    regs (step (st .ackHigh 5000 0x0000000123 7 0x01F400C8BD .checksumInvalid (sample 0 .low 5099))) =
        some ⟨.bitLow, 5099, 0x0000000000, 0, 0x01F400C8BD, .checksumInvalid⟩ ∧
    regs (step (st .ackHigh 5000 0x0000000123 7 0x01F400C8BD .checksumInvalid (sample 0 .high 5099))) =
        some ⟨.ackHigh, 5000, 0x0000000123, 7, 0x01F400C8BD, .checksumInvalid⟩ := by decide

theorem test_stepAckHigh_V53 :
    regs (exec .stepAckHigh (st .ackHigh 5000 0x0000000123 7 0x01F400C8BD .checksumInvalid (sample 0 .low 5100))) =
        some ⟨.idle, 5000, 0x0000000123, 7, 0x01F400C8BD, .unacknowledgedTransmission⟩ := by decide

theorem test_stepBitLow_V61_V62 :
    regs (step (st .bitLow 100 0x0000000005 3 0x01F400C8BD .none (sample 0 .high 165))) =
        some ⟨.bitHigh, 165, 0x0000000005, 3, 0x01F400C8BD, .none⟩ ∧
    regs (step (st .bitLow 100 0x0000000005 3 0x01F400C8BD .none (sample 0 .low 165))) =
        some ⟨.bitLow, 100, 0x0000000005, 3, 0x01F400C8BD, .none⟩ := by decide

theorem test_stepBitLow_V63 :
    regs (exec .stepBitLow (st .bitLow 100 0x0000000005 3 0x01F400C8BD .none (sample 0 .high 166))) =
        some ⟨.idle, 100, 0x0000000005, 3, 0x01F400C8BD, .pastReadIntervalLimit⟩ := by decide

theorem test_stepBitHigh_V72_V75_V82 :
    regs (step (st .bitHigh 200 0x0000000001 5 0x01F400C8BD .none (sample 0 .low 220))) =
        some ⟨.bitLow, 220, 0x0000000002, 6, 0x01F400C8BD, .none⟩ ∧
    regs (step (st .bitHigh 200 0x0000000001 5 0x01F400C8BD .none (sample 0 .low 250))) =
        some ⟨.bitLow, 250, 0x0000000003, 6, 0x01F400C8BD, .none⟩ ∧
    regs (step (st .bitHigh 200 0x0000000001 5 0x01F400C8BD .none (sample 0 .high 100000))) =
        some ⟨.bitHigh, 200, 0x0000000001, 5, 0x01F400C8BD, .none⟩ := by decide

theorem test_stepBitHigh_V78_V84 :
    regs (exec .stepBitHigh (st .bitHigh 200 0x0000000001 5 0x01F400C8BD .none (sample 0 .low 301))) =
        some ⟨.idle, 200, 0x0000000001, 5, 0x01F400C8BD, .readLengthInvalid⟩ ∧
    regs (exec .stepBitHigh (st .bitHigh 200 0x00FA00645E 39 0x0000000000 .none (sample 0 .low 270))) =
        some ⟨.validate, 270, 0x01F400C8BD, 40, 0x0000000000, .none⟩ := by decide

theorem test_stepValidate_V101 :
    regs (step (st .validate 270 0x01F400C8E3 40 0x01F400C8BD .unacknowledgedTransmission (sample 0 .low 271))) =
        some ⟨.idle, 270, 0x01F400C8E3, 40, 0x01F400C8BD, .checksumInvalid⟩ := by decide

theorem test_stepValidate_V103 :
    regs (exec .stepValidate (st .validate 270 0xFFFFFFFFFC 40 0x01F400C8BD .unacknowledgedTransmission (sample 0 .low 271))) =
        some ⟨.idle, 270, 0xFFFFFFFFFC, 40, 0xFFFFFFFFFC, .unacknowledgedTransmission⟩ := by decide

/-! The codes as operations: each has the effect of the vector in which the block itself does it. -/

theorem test_errNone_V3 :
    regs (exec .errNone (st .idle 6891 0x01F400C8BD 40 0x01F400C8BD .checksumInvalid (sample 2 .low 7000))) =
        some ⟨.idle, 6891, 0x01F400C8BD, 40, 0x01F400C8BD, .none⟩ := by decide

theorem test_errPastReadIntervalLimit_V63 :
    regs (exec .errPastReadIntervalLimit (st .bitLow 100 0x0000000005 3 0x01F400C8BD .none (sample 0 .low 166))) =
        some ⟨.idle, 100, 0x0000000005, 3, 0x01F400C8BD, .pastReadIntervalLimit⟩ := by decide

theorem test_errReadLengthInvalid_V71 :
    regs (exec .errReadLengthInvalid (st .bitHigh 200 0x0000000001 5 0x01F400C8BD .none (sample 0 .low 219))) =
        some ⟨.idle, 200, 0x0000000001, 5, 0x01F400C8BD, .readLengthInvalid⟩ := by decide

theorem test_errChecksumInvalid_V101 :
    regs (exec .errChecksumInvalid (st .validate 270 0x01F400C8E3 40 0x01F400C8BD .unacknowledgedTransmission (sample 0 .low 271))) =
        some ⟨.idle, 270, 0x01F400C8E3, 40, 0x01F400C8BD, .checksumInvalid⟩ := by decide

theorem test_errUnacknowledgedTransmission_V53 :
    regs (exec .errUnacknowledgedTransmission (st .ackHigh 5000 0x0000000123 7 0x01F400C8BD .checksumInvalid (sample 0 .low 5100))) =
        some ⟨.idle, 5000, 0x0000000123, 7, 0x01F400C8BD, .unacknowledgedTransmission⟩ := by decide

theorem test_errReserved_writes_nothing :
    regs (exec (.errReserved 0b101#3) (st .idle 6891 0x01F400C8BD 40 0x01F400C8BD .checksumInvalid (sample 0 .low 7000))) =
        some ⟨.idle, 6891, 0x01F400C8BD, 40, 0x01F400C8BD, .checksumInvalid⟩ := by decide

theorem test_durShort_V71 :
    regs (exec (.durShort 19#32) (st .bitHigh 200 0x0000000001 5 0x01F400C8BD .none (sample 0 .low 219))) =
        some ⟨.idle, 200, 0x0000000001, 5, 0x01F400C8BD, .readLengthInvalid⟩ := by decide

theorem test_sym0_V74_V83 :
    regs (exec (.sym0 49#32) (st .bitHigh 200 0x0000000001 5 0x01F400C8BD .none (sample 0 .low 249))) =
        some ⟨.bitLow, 249, 0x0000000002, 6, 0x01F400C8BD, .none⟩ ∧
    regs (exec (.sym0 26#32) (st .bitHigh 200 0x8000000001 10 0x0000000000 .none (sample 0 .low 226))) =
        some ⟨.bitLow, 226, 0x0000000002, 11, 0x0000000000, .none⟩ := by decide

theorem test_sym1_V77_V84 :
    regs (exec (.sym1 100#32) (st .bitHigh 200 0x0000000001 5 0x01F400C8BD .none (sample 0 .low 300))) =
        some ⟨.bitLow, 300, 0x0000000003, 6, 0x01F400C8BD, .none⟩ ∧
    regs (exec (.sym1 70#32) (st .bitHigh 200 0x00FA00645E 39 0x0000000000 .none (sample 0 .low 270))) =
        some ⟨.validate, 270, 0x01F400C8BD, 40, 0x0000000000, .none⟩ := by decide

theorem test_durLong_V78 :
    regs (exec (.durLong 101#32) (st .bitHigh 200 0x0000000001 5 0x01F400C8BD .none (sample 0 .low 301))) =
        some ⟨.idle, 200, 0x0000000001, 5, 0x01F400C8BD, .readLengthInvalid⟩ := by decide

/-- Program P1, milestone at step 5892: the raw frame is complete. -/
theorem test_frame_P1 :
    regs (exec (.frame 0x01F400C8BD#40) (st .bitHigh 6821 0x00FA00645E 39 0 .none (sample 0 .low 6891))) =
      some ⟨.validate, 6891, 0x01F400C8BD, 40, 0, .none⟩ := by decide +kernel

theorem test_low_V32_V62 :
    regs (exec .low (st .ackWaitLow 3000 0x0000000000 0 0x01F400C8BD .none (sample 0 .low 3039))) =
        some ⟨.ackLow, 3039, 0x0000000000, 0, 0x01F400C8BD, .none⟩ ∧
    regs (exec .low (st .bitLow 100 0x0000000005 3 0x01F400C8BD .none (sample 0 .low 165))) =
        some ⟨.bitLow, 100, 0x0000000005, 3, 0x01F400C8BD, .none⟩ := by decide

theorem test_high_V41_V52 :
    regs (exec .high (st .ackLow 5000 0x0000000000 0 0x01F400C8BD .none (sample 0 .high 5099))) =
        some ⟨.ackHigh, 5099, 0x0000000000, 0, 0x01F400C8BD, .none⟩ ∧
    regs (exec .high (st .ackHigh 5000 0x0000000123 7 0x01F400C8BD .checksumInvalid (sample 0 .high 5099))) =
        some ⟨.ackHigh, 5000, 0x0000000123, 7, 0x01F400C8BD, .checksumInvalid⟩ := by decide

theorem test_input : shown Outputs.lineDir (exec .input (holding 0)) = some .input := by decide
theorem test_output : shown Outputs.lineDir (exec .output (holding 0)) = some .output := by decide
theorem test_celsius : shown (fun o => o.tempOut.toInt) (exec .celsius (holding 0x025880320C)) =
        some (-50) := by decide
theorem test_fahrenheit :
    shown (fun o => o.tempOut.toInt) (exec .fahrenheit (holding 0x025880320C)) = some (-410) := by decide

/-- V90 to V92: the optional bound of the high phase at 150. -/
theorem test_high_bound_V90_V91_V92 :
    regs (step (bounded (sample 0 .high 349))) = some ⟨.bitHigh, 200, 1, 5, 0x01F400C8BD, .none⟩ ∧
    regs (step (bounded (sample 0 .high 350))) = some ⟨.idle, 200, 1, 5, 0x01F400C8BD, .readLengthInvalid⟩ ∧
    regs (step (bounded (sample 0 .low 350))) = some ⟨.idle, 200, 1, 5, 0x01F400C8BD, .readLengthInvalid⟩ := by decide

/-- R8 with `W` = 12 (00_scope.md): from 4090 to 5 the counter of 12 bits advances by 4096 - 4090 + 5 = 11. -/
theorem test_elapsed_of_a_12_bit_counter :
    elapsedOf { st .ackLow 4090 0 0 0 .none (sample 0 .low 5) with cfg := narrowParams } = 11 := by decide

/-! ### Functions and accessors, from spec/95_test_vectors.md section 2.9 -/

theorem test_checksum_valid : checksumOk 0x01F400C8BD#40 = true ∧ checksumOk 0x8080808000#40 = true ∧
    checksumOk 0xFF01000000#40 = true ∧ checksumOk 0x0100000001#40 = true := by decide
theorem test_checksum_invalid : checksumOk 0x01F400C8E3#40 = false ∧ checksumOk 0xFFFFFFFFFF#40 = false ∧
    checksumOk 0x0000000100#40 = false := by decide

theorem test_geterr : shown Outputs.errOut (exec .geterr (st .idle 0 0 0 0 .checksumInvalid (sample 0 .high 0))) =
    some 3#3 := by decide
theorem test_getframe : shown Outputs.frameOut (exec .getframe (holding 0x01F98037B1)) =
        some 0x01F98037B1#40 := by decide
theorem test_humraw : shown Outputs.humRaw (exec .humraw (holding 0x01F98037B1)) = some 505#16 := by decide
theorem test_temprawCkraw : shown (fun o => (o.tempRaw, o.ckRaw)) (exec .temprawCkraw (holding 0x01F98037B1)) =
    some (0x8037#16, 0xB1#8) := by decide
theorem test_tempsignMag : shown (fun o => (o.tempSign, o.tempMag)) (exec .tempsignMag (holding 0x01F98037B1)) =
    some (1#1, 55#15) := by decide
theorem test_gethum : shown (fun o => o.humOut.toNat) (exec .gethum (holding 0x01F98037B1)) = some 500 ∧
    shown (fun o => o.humOut.toNat) (exec .gethum (holding 0xFFFFFFFFFC)) = some 65530 := by decide
theorem test_gettempC : shown (fun o => o.tempOut.toInt) (exec .gettempC (holding 0x01F98037B1)) = some (-50) ∧
    shown (fun o => o.tempOut.toInt) (exec .gettempC (holding 0xFFFF7FFF7C)) = some 32760 := by decide
theorem test_gettempF : shown (fun o => o.tempOut.toInt) (exec .gettempF (holding 0x000A800993)) = some (-320) ∧
    shown (fun o => o.tempOut.toInt) (exec .gettempF (holding 0xFFFFFFFFFC)) = some (-59288) := by decide

/-- The line-control table of section 2.9. -/
theorem test_line_control :
    (ports .celsius (st .idle 0 0 0 0 .none (sample 0 .high 0))).busy = false ∧
    (ports .celsius (st .startLow 0 0 0 0 .none (sample 0 .high 0))).lineDir = .output ∧
    (ports .celsius (st .startLow 0 0 0 0 .none (sample 0 .high 0))).lineDrv = .low ∧
    (ports .celsius (st .validate 0 0 0 0 .none (sample 0 .high 0))).busy = true ∧
    (ports .celsius (st .validate 0 0 0 0 .none (sample 0 .high 0))).lineDir = .input := by decide

/-! ### A bare table word, placed after reset, is what the first step runs (log 11) -/

theorem test_placed_duration_runs :
    regs (step (State.reset.withFetchWord 32 49)) = some ⟨.bitLow, 49, 0, 1, 0, .none⟩ := by decide
theorem test_placed_frame_runs :
    regs (step (State.reset.withFetchWord 40 0x01F400C8BD)) = some ⟨.validate, 50, 0x01F400C8BD, 40, 0, .none⟩ := by decide
theorem test_placed_phase_runs :
    regs (step (State.reset.withFetchWord 8 0b111)) = some ⟨.idle, 0, 0, 0, 0, .none⟩ := by decide

/-! ### Witnesses: a concrete state and operands that meet the hypotheses of each statement, at the edges of its clauses -/

/-- A sample with reset, and any command. -/
def resetSample : Inputs := { sample 1 .low 7 with rst := true }

/-- A step answers a next state. -/
def Steps (s : State) : Prop := ∃ t, step s = .next t

/-- Any state steps, whatever its sample is. -/
theorem steps_of (s : State) : Steps s := ⟨_, step_eq s⟩

theorem witness_DecodeOfEncodeIsTheOperation :
    (Instr.errReserved 5#3).wellFormed = true ∧ (Instr.errReserved 7#3).wellFormed = true ∧
    (Instr.durShort 19#32).wellFormed = true ∧ (Instr.sym0 20#32).wellFormed = true ∧
    (Instr.sym1 100#32).wellFormed = true ∧ (Instr.durLong 0xFFFFFFFF#32).wellFormed = true := by decide

theorem witness_EncodeOfDecodeIsTheCode : decode ⟨.dur, 49⟩ = .instr (.sym0 49#32) := by decide

theorem witness_DurationsHaveExactlyOneClass :
    (Instr.sym0 49#32 = .durShort 49#32 ∨ Instr.sym0 49#32 = .sym0 49#32 ∨ Instr.sym0 49#32 = .sym1 49#32 ∨
      Instr.sym0 49#32 = .durLong 49#32) := .inr (.inl rfl)

theorem witness_PlacedTableWordRunsNext : AsDocumented State.reset.cfg ∧ AsDocumented (bounded (sample 0 .low 0)).cfg ∧
    decodeTableWord 8 7 = some .stepValidate ∧ decodeTableWord 16 19 = some (.durShort 19#32) ∧
    decodeTableWord 40 (2 ^ 40 - 1) = some (.frame 0xFFFFFFFFFF#40) := by decide

theorem witness_StepRunsTheDecodedOperation :
    decode (fetchWord (st .ackLow 0 0 0 0 .none (sample 0 .low 7))) = .instr .stepAckLow ∧
    decode (fetchWord (st .ackLow 0 0 0 0 .none resetSample)) = .instr .reset := by decide

theorem witness_StepShowsItsStartAndUsesOneSample :
    Steps (st .startLow 0 0 0 0 .checksumInvalid (sample 0 .low 7)) ∧ Steps (st .idle 0 0 0 0 .none resetSample) :=
  ⟨steps_of _, steps_of _⟩

theorem witness_ResetOverridesEverything :
    ∃ s r : State,
      r = { s with frame := 0#40, err := .none, phase := .idle, bitcnt := 0#6, acc := 0#40, tStart := 0#32 } ∧
      s.phase = .bitHigh ∧ (sampleOf s).rst = true :=
  ⟨st .bitHigh 200 0x15 5 0x01F400C8BD .checksumInvalid resetSample, _, rfl, rfl, rfl⟩

theorem witness_RowsRunAsStepsYieldToReset :
    (sampleOf (st .bitHigh 200 0x15 5 0x01F400C8BD .checksumInvalid resetSample)).rst = true ∧
    (Instr.stepBitHigh = .stepIdle ∨ Instr.stepBitHigh = .stepStartLow ∨ Instr.stepBitHigh = .stepAckWaitLow ∨
      Instr.stepBitHigh = .stepAckLow ∨ Instr.stepBitHigh = .stepAckHigh ∨ Instr.stepBitHigh = .stepBitLow ∨
      Instr.stepBitHigh = .stepBitHigh ∨ Instr.stepBitHigh = .stepValidate) ∧
    (∃ d, Instr.sym0 20#32 = .durShort d ∨ Instr.sym0 20#32 = .sym0 d ∨ Instr.sym0 20#32 = .sym1 d ∨
      Instr.sym0 20#32 = .durLong d) := ⟨rfl, by decide, 20#32, .inr (.inl rfl)⟩

theorem witness_ResetLeavesTheSpecsValues :
    ((sampleOf (st .bitHigh 200 0x15 5 0x01F400C8BD .checksumInvalid resetSample)).rst = true ∧
      Steps (st .bitHigh 200 0x15 5 0x01F400C8BD .checksumInvalid resetSample)) ∧
    SameRegisters (st .idle 0 0 0 0 .none (sample 0 .low 7)) State.reset :=
  ⟨⟨rfl, steps_of _⟩, rfl, rfl, rfl, rfl, rfl, rfl⟩

theorem witness_StepIsTheStepOfItsCommand :
    (sampleOf (st .idle 0 0 0 0 .none (sample 1 .low 7))).rst = false ∧
    (st .idle 0 0 0 0 .none (sample 1 .low 7)).phase = .idle ∧
    (sampleOf (st .validate 0 0 40 0 .none (sample 1 .low 7))).rst = false ∧
    (st .validate 0 0 40 0 .none (sample 1 .low 7)).phase ≠ .idle := by decide

theorem witness_IdleStepDecodesTheCommand : ∀ c : BitVec 2,
    (st .idle 0 0 0 0 .checksumInvalid (sample c .low 7)).phase = .idle ∧
    (sampleOf (st .idle 0 0 0 0 .checksumInvalid (sample c .low 7))).rst = false ∧
    (sampleOf (st .idle 0 0 0 0 .checksumInvalid (sample c .low 7))).cmd = c := fun _ => ⟨rfl, rfl, rfl⟩

theorem witness_NopAndReservedChangeNoRegister : (holding 0x01F400C8BD).phase = .idle := rfl

theorem witness_ReadStartsAnAttempt : ∃ r : State, (holding 0x01F400C8BD).phase = .idle ∧
    r = { holding 0x01F400C8BD with phase := .startLow, tStart := (sampleOf (holding 0x01F400C8BD)).now } :=
  ⟨_, rfl, rfl⟩

theorem witness_ClrerrClearsOnlyTheLatch :
    (st .idle 0 0 0 0 .checksumInvalid (sample 2 .low 7)).phase = .idle ∧
    (st .bitLow 0 0 0 0 .checksumInvalid (sample 2 .low 7)).phase ≠ .idle ∧
    (∃ t, step (st .idle 0 0 0 0 .checksumInvalid (sample 2 .low 7)) = .next t ∧
      (st .idle 0 0 0 0 .checksumInvalid (sample 2 .low 7)).err ≠ .none ∧ t.err = .none) ∧
    (∃ t, step (st .bitLow 0 0 0 0 .checksumInvalid resetSample) = .next t ∧
      (st .bitLow 0 0 0 0 .checksumInvalid resetSample).err ≠ .none ∧ t.err = .none) :=
  ⟨rfl, by decide, ⟨_, step_eq _, by decide, by decide⟩, ⟨_, step_eq _, by decide, by decide⟩⟩

theorem witness_BusyBlockIgnoresEveryCommand :
    (st .startLow 0 0 0 0 .checksumInvalid (sample 2 .low 7)).phase ≠ .idle ∧
    (sampleOf (st .startLow 0 0 0 0 .checksumInvalid (sample 2 .low 7))).rst = false ∧
    (Instr.cmdIgnored 0b10#2 = .nop ∨ Instr.cmdIgnored 0b10#2 = .read ∨ Instr.cmdIgnored 0b10#2 = .clrerr ∨
      Instr.cmdIgnored 0b10#2 = .cmdReserved ∨ Instr.cmdIgnored 0b10#2 = .cmdIgnored 0b10#2) := by decide

theorem witness_ElapsedIsTheModularDifference :
    ((32 ≤ 32 ∧ (5#32).toNat < 2 ^ 32 ∧ (0xFFFFFFFF#32).toNat < 2 ^ 32) ∧ (0 < 2 ^ 32 ∧ 2 ^ 32 - 1 < 2 ^ 32)) ∧
    (12 ≤ 32 ∧ (5#32).toNat < 2 ^ 12 ∧ (4090#32).toNat < 2 ^ 12) ∧ (0 < 2 ^ 12 ∧ 2 ^ 12 - 1 < 2 ^ 12) := by decide

/-- A waiting phase `ph` that began at 1000, sampled `e` µs later: phase, no reset, the elapsed time as the statements
write it, the level, and the documented parameters. -/
def WaitAt (ph : Phase) (l : Level) (e : Nat) : Prop :=
  (st ph 1000 0 0 0 .none (sample 0 l (1000 + e))).phase = ph ∧
  (sampleOf (st ph 1000 0 0 0 .none (sample 0 l (1000 + e)))).rst = false ∧
  e = ((sampleOf (st ph 1000 0 0 0 .none (sample 0 l (1000 + e)))).now.toNat + 2 ^ 32 -
    (st ph 1000 0 0 0 .none (sample 0 l (1000 + e))).tStart.toNat) % 2 ^ 32 %
      2 ^ (st ph 1000 0 0 0 .none (sample 0 l (1000 + e))).cfg.nowWidth ∧
  (sampleOf (st ph 1000 0 0 0 .none (sample 0 l (1000 + e)))).lineIn = l ∧
  AsDocumented (st ph 1000 0 0 0 .none (sample 0 l (1000 + e))).cfg

theorem witness_StartLowReleasesAt2000 : WaitAt .startLow .low 1999 ∧ WaitAt .startLow .high 2000 := by
  unfold WaitAt; decide

theorem witness_AckWaitLowWaitsForLow :
    WaitAt .ackWaitLow .low 39 ∧ WaitAt .ackWaitLow .high 39 ∧ WaitAt .ackWaitLow .low 40 := by unfold WaitAt; decide

theorem witness_AckLowWaitsForHigh :
    WaitAt .ackLow .high 99 ∧ WaitAt .ackLow .low 99 ∧ WaitAt .ackLow .high 100 := by unfold WaitAt; decide

theorem witness_AckHighEntersDecoding :
    WaitAt .ackHigh .low 99 ∧ WaitAt .ackHigh .high 99 ∧ WaitAt .ackHigh .low 100 := by unfold WaitAt; decide

theorem witness_BitLowWaitsForHigh :
    WaitAt .bitLow .high 65 ∧ WaitAt .bitLow .low 65 ∧ WaitAt .bitLow .high 66 := by unfold WaitAt; decide

/-- `received` exists in every state; the high phase at the edges of the windows, and below and at a configured bound. -/
theorem witness_BitHighClassifiesAndShifts :
    (∀ s : State, ∃ received : Nat → State, ∀ symbol, received symbol =
      { s with
        acc := BitVec.ofNat 40 ((2 * s.acc.toNat + symbol) % 2 ^ s.cfg.frameWidth)
        bitcnt := s.bitcnt + 1#6
        tStart := (sampleOf s).now
        phase := if s.bitcnt.toNat + 1 = s.cfg.nBits then .validate else .bitLow }) ∧
    (WaitAt .bitHigh .low 19 ∧ WaitAt .bitHigh .low 20 ∧ WaitAt .bitHigh .low 49 ∧ WaitAt .bitHigh .low 50 ∧
      WaitAt .bitHigh .low 100 ∧ WaitAt .bitHigh .low 101 ∧ WaitAt .bitHigh .high 101) ∧
    (∀ now, now = 349 ∨ now = 350 → (bounded (sample 0 .high now)).phase = .bitHigh ∧
      (sampleOf (bounded (sample 0 .high now))).rst = false ∧
      now - 200 = ((sampleOf (bounded (sample 0 .high now))).now.toNat + 2 ^ 32 -
        (bounded (sample 0 .high now)).tStart.toNat) % 2 ^ 32 % 2 ^ (bounded (sample 0 .high now)).cfg.nowWidth) := by
  refine ⟨fun s => ⟨_, fun _ => rfl⟩, by unfold WaitAt; decide, ?_⟩
  rintro now (rfl | rfl) <;> decide

/-- Below the bound, at it with the line HIGH, and at it with the line LOW. -/
theorem witness_ConfiguredHighBoundFaults : ∀ l now, (l = .high ∧ (now = 349 ∨ now = 350)) ∨ (l = .low ∧ now = 350) →
    (bounded (sample 0 l now)).cfg.bitHighMax = some 150 ∧ (bounded (sample 0 l now)).phase = .bitHigh ∧
    (sampleOf (bounded (sample 0 l now))).rst = false ∧ (sampleOf (bounded (sample 0 l now))).lineIn = l ∧
    (bounded (sample 0 l now)).cfg.Admissible ∧
    (bounded (sample 0 l now)).cfg.sym0Max ≤ (bounded (sample 0 l now)).cfg.sym1Max ∧
    elapsedOf (bounded (sample 0 l now)) = now - 200 := by
  rintro l now (⟨rfl, rfl | rfl⟩ | ⟨rfl, rfl⟩) <;> decide

theorem witness_ValidatePromotesOrRaises :
    (st .validate 270 0x01F400C8BD 40 0 .none (sample 0 .low 271)).phase = .validate ∧
    (sampleOf (st .validate 270 0x01F400C8BD 40 0 .none (sample 0 .low 271))).rst = false ∧
    checksumOk (st .validate 270 0x01F400C8BD 40 0 .none (sample 0 .low 271)).acc = true ∧
    (st .validate 270 0x01F400C8E3 40 0 .none (sample 0 .low 271)).phase = .validate ∧
    (sampleOf (st .validate 270 0x01F400C8E3 40 0 .none (sample 0 .low 271))).rst = false ∧
    checksumOk (st .validate 270 0x01F400C8E3 40 0 .none (sample 0 .low 271)).acc = false := by decide

theorem witness_FortyShiftsPutTheFirstSymbolOnTop :
    (0 < 40 ∧ 39 < 40) ∧
    (st .bitHigh 200 1 5 0 .none (sample 0 .low 219)).phase = .bitHigh ∧
    (sampleOf (st .bitHigh 200 1 5 0 .none (sample 0 .low 219))).rst = false ∧
    classify (st .bitHigh 200 1 5 0 .none (sample 0 .low 219)).cfg
      (elapsedOf (st .bitHigh 200 1 5 0 .none (sample 0 .low 219))) = none ∧
    Steps (st .bitHigh 200 1 5 0 .none (sample 0 .low 219)) :=
  ⟨by decide, rfl, rfl, by decide, steps_of _⟩

theorem witness_OutputsHideTheHiddenRegisters :
    SameVisible (st .bitLow 100 5 3 0x01F400C8BD .none (sample 0 .low 1))
      (st .bitLow 900 6 4 0x01F400C8BD .none (sample 0 .low 1)) := ⟨rfl, rfl, rfl⟩

theorem witness_FaultRowsRaise :
    (sampleOf (holding 0)).rst = false ∧
    ((Instr.errChecksumInvalid = .errPastReadIntervalLimit ∧ ErrKind.checksumInvalid = .pastReadIntervalLimit) ∨
      (Instr.errChecksumInvalid = .errReadLengthInvalid ∧ ErrKind.checksumInvalid = .readLengthInvalid) ∨
      (Instr.errChecksumInvalid = .errChecksumInvalid ∧ ErrKind.checksumInvalid = .checksumInvalid) ∨
      (Instr.errChecksumInvalid = .errUnacknowledgedTransmission ∧
        ErrKind.checksumInvalid = .unacknowledgedTransmission)) := by decide

theorem witness_NoneRowClearsAndReservedRowsWriteNothing :
    (sampleOf (holding 0)).rst = false ∧ 5 ≤ (5#3).toNat ∧ 5 ≤ (7#3).toNat := by decide

theorem witness_DurationRowsShiftOrRaise :
    (sampleOf (holding 0)).rst = false ∧ (19#32).toNat < 20 ∧ (20 ≤ (20#32).toNat ∧ (20#32).toNat ≤ 49) ∧
    (20 ≤ (49#32).toNat ∧ (49#32).toNat ≤ 49) ∧ (50 ≤ (50#32).toNat ∧ (50#32).toNat ≤ 100) ∧
    (50 ≤ (100#32).toNat ∧ (100#32).toNat ≤ 100) ∧ 100 < (101#32).toNat := by decide

theorem witness_FallingEdgeRunsTheDurationRow :
    WaitAt .bitHigh .low 19 ∧ WaitAt .bitHigh .low 20 ∧ WaitAt .bitHigh .low 101 := by unfold WaitAt; decide

/-- Each condition holds somewhere, for the `cond` that the statement describes. -/
theorem witness_FaultsAreRaisedExactlyWhere :
    (∀ (s : State) (e : Nat), ∃ cond : ErrKind → Prop, ∀ k, cond k ↔ match k with
      | .none => False
      | .pastReadIntervalLimit => s.phase = .bitLow ∧ s.cfg.bitLowFailAt ≤ e
      | .readLengthInvalid => s.phase = .bitHigh ∧
          ((sampleOf s).lineIn = .low ∧ ¬(s.cfg.sym0Min ≤ e ∧ e ≤ s.cfg.sym0Max) ∧
              ¬(s.cfg.sym1Min ≤ e ∧ e ≤ s.cfg.sym1Max) ∨
            (sampleOf s).lineIn = .high ∧ ∃ b ∈ s.cfg.bitHighMax, b ≤ e)
      | .checksumInvalid => s.phase = .validate ∧ checksumOk s.acc = false
      | .unacknowledgedTransmission => s.phase = .ackWaitLow ∧ s.cfg.ackP1FailAt ≤ e ∨
          s.phase = .ackLow ∧ s.cfg.ackP2FailAt ≤ e ∨ s.phase = .ackHigh ∧ s.cfg.ackP3FailAt ≤ e) ∧
    WaitAt .bitLow .low 66 ∧ WaitAt .bitHigh .low 19 ∧ WaitAt .bitHigh .low 101 ∧ WaitAt .ackWaitLow .low 40 ∧
    WaitAt .ackLow .low 100 ∧ WaitAt .ackHigh .low 100 ∧
    ((bounded (sample 0 .high 350)).phase = .bitHigh ∧ (sampleOf (bounded (sample 0 .high 350))).rst = false ∧
      (sampleOf (bounded (sample 0 .high 350))).lineIn = .high ∧
      150 ∈ (bounded (sample 0 .high 350)).cfg.bitHighMax ∧ 150 ≤ elapsedOf (bounded (sample 0 .high 350)) ∧
      Steps (bounded (sample 0 .high 350))) ∧
    (st .validate 270 0x01F400C8E3 40 0 .none (sample 0 .low 271)).phase = .validate ∧
    checksumOk (st .validate 270 0x01F400C8E3 40 0 .none (sample 0 .low 271)).acc = false ∧
    Steps (st .validate 270 0x01F400C8E3 40 0 .none (sample 0 .low 271)) :=
  ⟨fun _ _ => ⟨_, fun _ => Iff.rfl⟩, by unfold WaitAt; decide, by unfold WaitAt; decide, by unfold WaitAt; decide,
    by unfold WaitAt; decide, by unfold WaitAt; decide, by unfold WaitAt; decide,
    ⟨rfl, rfl, rfl, rfl, by decide, steps_of _⟩, rfl, by decide, steps_of _⟩

theorem witness_ReceivedFrameIsInTheAccumulator :
    (holding 0).cfg.Admissible ∧ (sampleOf (holding 0)).rst = false := by decide

theorem witness_LevelRowsAreOneStepAtThatLevel :
    ((Instr.low = .low ∧ Level.low = .low) ∨ (Instr.low = .high ∧ Level.low = .high)) ∧
    ((Instr.high = .low ∧ Level.high = .low) ∨ (Instr.high = .high ∧ Level.high = .high)) ∧
    (st .ackWaitLow 1000 0 0 0 .none (sample 0 .low 1039)).phase = .ackWaitLow ∧
    elapsedOf (st .ackWaitLow 1000 0 0 0 .none (sample 0 .low 1039)) <
      (st .ackWaitLow 1000 0 0 0 .none (sample 0 .low 1039)).cfg.ackP1FailAt ∧
    (st .ackLow 1000 0 0 0 .none (sample 0 .low 1099)).phase = .ackLow ∧
    elapsedOf (st .ackLow 1000 0 0 0 .none (sample 0 .low 1099)) <
      (st .ackLow 1000 0 0 0 .none (sample 0 .low 1099)).cfg.ackP2FailAt ∧ (holding 0).phase = .idle := by decide

theorem witness_UnitRowsSelectTheTemperature :
    ((Instr.celsius = .celsius ∧ TempUnit.celsius = .celsius) ∨
      (Instr.celsius = .fahrenheit ∧ TempUnit.celsius = .fahrenheit)) ∧
    ((Instr.fahrenheit = .celsius ∧ TempUnit.fahrenheit = .celsius) ∨
      (Instr.fahrenheit = .fahrenheit ∧ TempUnit.fahrenheit = .fahrenheit)) := by decide

/-- Inside the bit loop with 39 symbols received, before validation, and with a configured bound. -/
theorem witness_EveryStepKeepsFrameValidAndCountInRange :
    SafeState (st .bitHigh 200 0x00FA00645E 39 0x01F400C8BD .none (sample 0 .low 270)) ∧
    Steps (st .bitHigh 200 0x00FA00645E 39 0x01F400C8BD .none (sample 0 .low 270)) ∧
    SafeState (st .validate 270 0x01F400C8BD 40 0 .none (sample 0 .low 271)) ∧
    Steps (st .validate 270 0x01F400C8BD 40 0 .none (sample 0 .low 271)) ∧
    SafeState (bounded (sample 0 .high 350)) ∧ Steps (bounded (sample 0 .high 350)) :=
  ⟨by decide, steps_of _, by decide, steps_of _, by decide, steps_of _⟩

theorem witness_FrameIsWrittenOnlyByPromotion :
    (∃ t, step (st .validate 270 0x01F400C8BD 40 0 .none (sample 0 .low 271)) = .next t ∧
      t.frame ≠ (st .validate 270 0x01F400C8BD 40 0 .none (sample 0 .low 271)).frame) ∧
    (∃ t, step (st .idle 0 0 0 0x01F400C8BD .none resetSample) = .next t ∧
      t.frame ≠ (st .idle 0 0 0 0x01F400C8BD .none resetSample).frame) :=
  ⟨⟨_, step_eq _, by decide⟩, ⟨_, step_eq _, by decide⟩⟩

theorem witness_LatchIsSticky : Steps (st .bitLow 100 5 3 0 .unacknowledgedTransmission (sample 2 .low 166)) ∧
    Steps (st .idle 100 5 3 0 .unacknowledgedTransmission (sample 2 .low 166)) ∧
    Steps (st .bitLow 100 5 3 0 .unacknowledgedTransmission resetSample) := ⟨steps_of _, steps_of _, steps_of _⟩

theorem witness_PhasesFollowTheTransitionMap :
    (sampleOf (st .bitHigh 200 0 39 0 .none (sample 0 .low 270))).rst = false ∧
    Steps (st .bitHigh 200 0 39 0 .none (sample 0 .low 270)) := ⟨rfl, steps_of _⟩

theorem witness_UnsampledInputsDoNotMatter :
    (st .idle 0 0 0 0 .none (sample 1 .low 7)).phase = .idle ∧ (st .startLow 0 0 0 0 .none (sample 1 .low 7)).phase = .startLow ∧
    (st .validate 0 0 40 0 .none (sample 1 .low 7)).phase = .validate ∧
    ((st .idle 0 0 0 0 .none (sample 2 .low 7)).phase = .idle ∧
      (sampleOf (st .idle 0 0 0 0 .none (sample 2 .low 7))).cmd ≠ 0b01#2) := by decide

/-- Two idle blocks with different hidden registers. -/
theorem witness_HiddenRegistersNeverInfluenceAnAttempt :
    ∃ s t : State, s.phase = .idle ∧ SameVisible s t ∧ s.cfg = t.cfg ∧ s.inputs = t.inputs ∧ s.tick = t.tick ∧ s.out = t.out ∧
      s.acc ≠ t.acc ∧ s.bitcnt ≠ t.bitcnt ∧ s.tStart ≠ t.tStart :=
  ⟨st .idle 1 5 3 0x01F400C8BD .none (sample 1 .low 7), st .idle 2 6 4 0x01F400C8BD .none (sample 1 .low 7),
    by decide, by decide, rfl, by decide, by decide, by decide, by decide, by decide, by decide⟩

/-! The runs: samples of `k` ideally sampled steps from a given counter value, one level. -/

/-- `k` samples with the counter at `n`, `n` + 1, … and the line at `l`. -/
def idealRun (l : Level) : Micros → Nat → List Inputs
  | _, 0 => []
  | n, k + 1 => ⟨false, cmdNop, .celsius, l, n⟩ :: idealRun l (n + 1#32) k

theorem idealRun_length (l : Level) (k : Nat) : ∀ n, (idealRun l n k).length = k := by
  induction k with
  | zero => exact fun _ => rfl
  | succ k ih => exact fun n => by simp [idealRun, ih]

theorem idealRun_ideal (l : Level) (k : Nat) : ∀ n, IdealFrom n (idealRun l n k) := by
  induction k with
  | zero => exact fun _ => trivial
  | succ k ih => exact fun n => ⟨rfl, rfl, ih _⟩

theorem idealRun_mem (l : Level) (k : Nat) : ∀ n, ∀ i ∈ idealRun l n k, i.rst = false ∧ i.cmd = cmdNop ∧ i.lineIn = l := by
  induction k with
  | zero => intro n i h; simp [idealRun] at h
  | succ k ih =>
    intro n i h
    simp only [idealRun, List.mem_cons] at h
    obtain rfl | h := h
    · exact ⟨rfl, rfl, rfl⟩
    · exact ih _ i h

/-- A block in `ph` whose timer began at 1000, before `k` ideal samples at level `l`. -/
def waiting (ph : Phase) (l : Level) (k : Nat) : State :=
  { st ph 1000 0 0 0x01F400C8BD .none (sample 0 l 0) with inputs := idealRun l 1001#32 k }

theorem waiting_ideal (ph : Phase) (l : Level) (k : Nat) :
    (waiting ph l k).phase = ph ∧ k ≤ (waiting ph l k).inputs.length ∧
    IdealFrom ((waiting ph l k).tStart + 1#32) ((waiting ph l k).inputs.take k) := by
  have h : (waiting ph l k).inputs.take k = idealRun l 1001#32 k :=
    List.take_of_length_le (Nat.le_of_eq (idealRun_length l k _))
  exact ⟨rfl, Nat.le_of_eq (idealRun_length l k _).symm, by rw [h]; exact idealRun_ideal l k 1001#32⟩

theorem witness_IdleBlockKeepsItsRegisters :
    (waiting .idle .high 100).phase = .idle ∧ 100 ≤ (waiting .idle .high 100).inputs.length ∧
    AllQuiet ((waiting .idle .high 100).inputs.take 100) := by
  refine ⟨rfl, (waiting_ideal .idle .high 100).2.1, fun i hi => ?_⟩
  obtain ⟨h1, h2, -⟩ := idealRun_mem .high 100 1001#32 i (List.mem_of_mem_take hi)
  rw [h1, h2]
  decide

theorem witness_StuckHighLineHangsTheAttempt :
    (waiting .bitHigh .high 100).cfg.bitHighMax = none ∧ (waiting .bitHigh .high 100).phase = .bitHigh ∧ 100 ≤ (waiting .bitHigh .high 100).inputs.length ∧
    ∀ i ∈ (waiting .bitHigh .high 100).inputs.take 100, i.rst = false ∧ i.lineIn = .high :=
  ⟨rfl, rfl, (waiting_ideal .bitHigh .high 100).2.1, fun i hi =>
    ⟨(idealRun_mem .high 100 1001#32 i (List.mem_of_mem_take hi)).1,
      (idealRun_mem .high 100 1001#32 i (List.mem_of_mem_take hi)).2.2⟩⟩

theorem witness_StartLowLastsExactly2000Steps :
    AsDocumented (waiting .startLow .high 2000).cfg ∧ (waiting .startLow .high 2000).phase = .startLow ∧ 2000 ≤ (waiting .startLow .high 2000).inputs.length ∧
    IdealFrom ((waiting .startLow .high 2000).tStart + 1#32) ((waiting .startLow .high 2000).inputs.take 2000) :=
  ⟨rfl, waiting_ideal _ _ _⟩

/-- The four bounded waits, and the high phase with a bound of 150. -/
theorem witness_BoundedWaitsEndInTime :
    (∀ ph bound, (ph = .ackWaitLow ∧ bound = 40) ∨ (ph = .ackLow ∧ bound = 100) ∨ (ph = .ackHigh ∧ bound = 100) ∨
        (ph = .bitLow ∧ bound = 66) →
      AsDocumented (waiting ph .low bound).cfg ∧ (waiting ph .low bound).phase = ph ∧
      bound ≤ (waiting ph .low bound).inputs.length ∧
      IdealFrom ((waiting ph .low bound).tStart + 1#32) ((waiting ph .low bound).inputs.take bound)) ∧
    (∃ s : State, AsDocumented s.cfg ∧ (s.phase = .bitHigh ∧ s.cfg.bitHighMax = some 150 ∧ 1 ≤ 150 ∧ 150 < 2 ^ 32) ∧
      150 ≤ s.inputs.length ∧ IdealFrom (s.tStart + 1#32) (s.inputs.take 150)) :=
  ⟨fun _ _ _ => ⟨rfl, waiting_ideal _ _ _⟩,
    ⟨{ waiting .bitHigh .high 150 with cfg := boundedParams }, rfl, ⟨rfl, rfl, by decide, by decide⟩,
      (waiting_ideal .bitHigh .high 150).2⟩⟩

theorem witness_HandshakeEndsWithin2240Steps :
    AsDocumented (waiting .startLow .low 2240).cfg ∧ (waiting .startLow .low 2240).phase = .startLow ∧ 2240 ≤ (waiting .startLow .low 2240).inputs.length ∧
    IdealFrom ((waiting .startLow .low 2240).tStart + 1#32) ((waiting .startLow .low 2240).inputs.take 2240) :=
  ⟨rfl, waiting_ideal _ _ _⟩

/-- A block in BIT_LOW before one bit of 1 µs LOW and `high` µs HIGH. -/
def bitSamples (high : Nat) : State :=
  { st .bitLow 1000 5 3 0x01F400C8BD .none (sample 0 .low 0) with
    inputs := idealRun .high 1001#32 high ++ [⟨false, cmdNop, .celsius, .low, 1001#32 + BitVec.ofNat 32 high⟩] }

/-- Its samples are ideal. -/
theorem idealRun_append (k : Nat) : ∀ n : Micros,
    IdealFrom n (idealRun .high n k ++ [⟨false, cmdNop, .celsius, .low, n + BitVec.ofNat 32 k⟩]) := by
  induction k with
  | zero => exact fun n => ⟨rfl, by simp, trivial⟩
  | succ k ih =>
    refine fun n => ⟨rfl, rfl, ?_⟩
    have h := ih (n + 1#32)
    rwa [BitVec.add_assoc, show 1#32 + BitVec.ofNat 32 k = BitVec.ofNat 32 (k + 1) by
      apply BitVec.eq_of_toNat_eq; simp [BitVec.toNat_add, Nat.add_comm]] at h

/-- Its levels. -/
theorem idealRun_levels (k : Nat) : ∀ n, (idealRun .high n k).map Inputs.lineIn = List.replicate k .high := by
  induction k with
  | zero => exact fun _ => rfl
  | succ k ih => exact fun n => by simp [idealRun, ih, List.replicate_succ]

/-- High times at the edges of the windows; with a bound of 150, the high time at it and the one below it. -/
theorem witness_BitOfGivenDurationsIsReceived : ∀ p high, (p = Config.params ∧ (high = 19 ∨ high = 20 ∨ high = 49 ∨
      high = 50 ∨ high = 100 ∨ high = 101)) ∨ (p = boundedParams ∧ (high = 149 ∨ high = 150)) →
    AsDocumented { bitSamples high with cfg := p }.cfg ∧
    (∀ b ∈ { bitSamples high with cfg := p }.cfg.bitHighMax, high ≤ b) ∧
    (bitSamples high).phase = .bitLow ∧ (1 ≤ 1 ∧ 1 ≤ 65) ∧ 1 ≤ high ∧ high < 2 ^ 32 ∧
    ((bitSamples high).inputs.take (1 + high)).map Inputs.lineIn =
      List.replicate (1 - 1) .low ++ List.replicate high .high ++ [.low] ∧
    IdealFrom ((bitSamples high).tStart + 1#32) ((bitSamples high).inputs.take (1 + high)) := by
  intro p high h
  have hp : p = Config.params ∨ p = boundedParams ∧ high ≤ 150 := by
    obtain ⟨h, -⟩ | ⟨h, hh⟩ := h
    · exact .inl h
    · exact .inr ⟨h, by omega⟩
  have hlen : (bitSamples high).inputs.length = high + 1 := by simp [bitSamples, idealRun_length]
  have ht : (bitSamples high).inputs.take (1 + high) = (bitSamples high).inputs :=
    List.take_of_length_le (by omega)
  rw [ht]
  refine ⟨?_, ?_, rfl, by decide, by omega, by omega, ?_, idealRun_append high 1001#32⟩
  · obtain rfl | ⟨rfl, -⟩ := hp <;> rfl
  · intro b hb
    obtain rfl | ⟨rfl, hle⟩ := hp
    · cases hb
    · cases hb
      exact hle
  · simp [bitSamples, idealRun_levels]

/-- The high time of bit `39 - i` of `f` in the test frames: 20 µs for a 0, 50 µs for a 1. -/
def highOf (f : FrameWord) (i : Nat) : Nat := if f.getLsbD (39 - i) = true then 50 else 20

/-- The levels of a wire frame `f` with low phases of 1 µs, after its first edge sample. -/
def frameLevels (f : FrameWord) : List Level :=
  (List.range 40).flatMap (fun i => List.replicate (1 - 1) .low ++ List.replicate (highOf f i) .high ++ [.low])

/-- Ideal samples at given levels. -/
def idealAt : Micros → List Level → List Inputs
  | _, [] => []
  | n, l :: ls => ⟨false, cmdNop, .celsius, l, n⟩ :: idealAt (n + 1#32) ls

theorem idealAt_ideal : ∀ (ls : List Level) (n : Micros), IdealFrom n (idealAt n ls)
  | [], _ => trivial
  | _ :: ls, n => ⟨rfl, rfl, idealAt_ideal ls (n + 1#32)⟩

theorem idealAt_levels : ∀ (ls : List Level) (n : Micros), (idealAt n ls).map Inputs.lineIn = ls
  | [], _ => rfl
  | l :: ls, n => congrArg (l :: ·) (idealAt_levels ls (n + 1#32))

/-- A block at the first bit of the wire frame `f`, and the sample of the VALIDATE step. -/
def frameSent (f : FrameWord) : State :=
  { st .bitLow 1000 0x123 0 0x01F400C8BD .none (sample 0 .low 0) with
    inputs := idealAt 1001#32 (frameLevels f ++ [.low]) }

/-- The hypotheses of the statement. -/
def SentOnTheWire (s : State) (f : FrameWord) (low high : Nat → Nat) (n : Nat) : Prop :=
  AsDocumented s.cfg ∧ s.cfg.Admissible ∧ s.phase = .bitLow ∧ s.bitcnt = 0#6 ∧
  (∀ i < 40, 1 ≤ low i ∧ low i ≤ 65 ∧
    if f.getLsbD (39 - i) = true then 50 ≤ high i ∧ high i ≤ 100 else 20 ≤ high i ∧ high i ≤ 49) ∧
  n = ((List.range 40).map fun i => low i + high i).sum ∧ n + 1 ≤ s.inputs.length ∧
  (s.inputs.take n).map Inputs.lineIn = (List.range 40).flatMap (fun i =>
    List.replicate (low i - 1) .low ++ List.replicate (high i) .high ++ [.low]) ∧
  IdealFrom (s.tStart + 1#32) (s.inputs.take (n + 1))

/-- The documented parameters are admissible (R6). -/
theorem test_documented_parameters_are_admissible : Config.params.Admissible := by decide

/-- Any frame can be sent so. -/
theorem frameSent_meets (f : FrameWord) (n : Nat) (hn : n = ((List.range 40).map fun i => 1 + highOf f i).sum) :
    SentOnTheWire (frameSent f) f (fun _ => 1) (highOf f) n := by
  have hl : (frameLevels f).length = n := by
    rw [hn, frameLevels, List.length_flatMap]
    congr 2
    funext i
    simp [Nat.add_comm]
  have hlen : (frameSent f).inputs.length = n + 1 := by
    have h := congrArg List.length (idealAt_levels (frameLevels f ++ [.low]) 1001#32)
    rwa [List.length_map, List.length_append, hl] at h
  refine ⟨rfl, test_documented_parameters_are_admissible, rfl, rfl, ?_, hn, Nat.le_of_eq hlen.symm, ?_, ?_⟩
  · intro i _
    cases h : f.getLsbD (39 - i) <;> simp [highOf, h]
  · have h : ((frameSent f).inputs.map Inputs.lineIn).take n = frameLevels f := by
      show ((idealAt 1001#32 (frameLevels f ++ [.low])).map Inputs.lineIn).take n = _
      rw [idealAt_levels, ← hl, List.take_left]
    rw [List.map_take, h, frameLevels]
  · rw [List.take_of_length_le (Nat.le_of_eq hlen)]
    exact idealAt_ideal (frameLevels f ++ [.low]) 1001#32

/-- Two frames with 0 and 1 bits: the checksum of the first holds, that of the second fails. -/
theorem witness_WireFrameIsReceivedAndValidated :
    (SentOnTheWire (frameSent 0x01F400C8BD#40) 0x01F400C8BD#40 (fun _ => 1) (highOf 0x01F400C8BD#40) 1290 ∧
      checksumOk 0x01F400C8BD#40 = true) ∧
    (SentOnTheWire (frameSent 0x01F400C8E3#40) 0x01F400C8E3#40 (fun _ => 1) (highOf 0x01F400C8E3#40) 1260 ∧
      checksumOk 0x01F400C8E3#40 = false) :=
  ⟨⟨frameSent_meets _ _ (by decide), by decide⟩, ⟨frameSent_meets _ _ (by decide), by decide⟩⟩

end Sys2Proof.Tests
end

section
/-! PROOFS. The duration codes of 30_encoding.md R77: the four ranges partition all durations. -/

namespace Sys2Proof

open Machine

/-- The decoder's class of a duration as the chain of R77's upper bounds. -/
theorem decodeDur_eq (d : Micros) :
    decodeDur d = if d.toNat ≤ 19 then .durShort d else if d.toNat ≤ 49 then .sym0 d
      else if d.toNat ≤ 100 then .sym1 d else .durLong d := by
  obtain ⟨hr, h⟩ | ⟨hlo, hhi, h⟩ | ⟨hlo, hhi, h⟩ | ⟨hr, h⟩ := decodeDur_cases d
  · rw [h, if_pos (by omega)]
  · rw [h, if_neg (by omega), if_pos hhi]
  · rw [h, if_neg (by omega), if_neg (by omega), if_pos hhi]
  · rw [h, if_neg (by omega), if_neg (by omega), if_neg (by omega)]

/-- `Classify` with the documented windows as the chain of R77's upper bounds: the two windows touch, so only the
outermost ranges fault. -/
theorem classify_eq (d : Nat) :
    classify Config.params d = if d ≤ 19 then none else if d ≤ 49 then some 0#1
      else if d ≤ 100 then some 1#1 else none := by
  obtain ⟨hlo, hhi, h⟩ | ⟨hlo, hhi, h⟩ | ⟨hshort | hlong, h⟩ := classify_cases d
  · rw [h, if_neg (by omega), if_pos hhi]
  · rw [h, if_neg (by omega), if_neg (by omega), if_pos hhi]
  · rw [h, if_pos (by omega)]
  · rw [h, if_neg (by omega), if_neg (by omega), if_neg (by omega)]

/-- The ranges cover: the class a duration decodes to has it in its range. -/
theorem wellFormed_decodeDur (d : Micros) : (decodeDur d).wellFormed = true := by
  obtain ⟨hr, h⟩ | ⟨hlo, hhi, h⟩ | ⟨hlo, hhi, h⟩ | ⟨hr, h⟩ := decodeDur_cases d
  · rw [h, wellFormed_durShort]; exact hr
  · rw [h, wellFormed_sym0]; exact ⟨hlo, hhi⟩
  · rw [h, wellFormed_sym1]; exact ⟨hlo, hhi⟩
  · rw [h, wellFormed_durLong]; exact hr

/-- The ranges are disjoint: a duration row that has its operand in its range is the one the operand decodes to. -/
theorem decodeDur_eq_of_wellFormed {d : Micros} {i : Instr}
    (hrow : i = .durShort d ∨ i = .sym0 d ∨ i = .sym1 d ∨ i = .durLong d) (hwf : i.wellFormed = true) :
    decodeDur d = i := by
  rw [decodeDur_eq]
  obtain rfl | rfl | rfl | rfl := hrow
  · have hr := (wellFormed_durShort d).mp hwf
    rw [if_pos (by omega)]
  · obtain ⟨hlo, hhi⟩ := (wellFormed_sym0 d).mp hwf
    rw [if_neg (by omega), if_pos hhi]
  · obtain ⟨hlo, hhi⟩ := (wellFormed_sym1 d).mp hwf
    rw [if_neg (by omega), if_neg (by omega), if_pos hhi]
  · have hr := (wellFormed_durLong d).mp hwf
    rw [if_neg (by omega), if_neg (by omega), if_neg (by omega)]

/-- Settles O4: the decoder and `Classify` follow R77's chain of bounds, and the ranges of the four rows cover every
duration and are disjoint. -/
theorem durationsHaveExactlyOneClass : Obligations.DurationsHaveExactlyOneClass := by
  intro d
  rw [decode_dur]
  refine ⟨congrArg Decoded.instr (decodeDur_eq d), classify_eq d.toNat, fun i hrow => ⟨fun hwf => ?_, fun hdec => ?_⟩⟩
  · rw [decodeDur_eq_of_wellFormed hrow hwf]
  · have hi : decodeDur d = i := Decoded.instr.inj hdec
    exact hi ▸ wellFormed_decodeDur d

end Sys2Proof
end

section
/-! PROOFS. The three acknowledgment waits of 40_handshake.md sections 3 to 5: one step of a bounded wait, said once
for the rule all three share, and each phase as a use of it. -/

namespace Sys2Proof

open Machine

/-- The elapsed time of R8 without machine words: the unsigned difference of the counter's 32-bit words, cut to the
block's `W` bits. -/
theorem elapsedOf_eq (s : State) :
    elapsedOf s = ((sampleOf s).now.toNat + 2 ^ 32 - s.tStart.toNat) % 2 ^ 32 % 2 ^ s.cfg.nowWidth := by
  have hstart := s.tStart.isLt
  rw [elapsedOf, elapsed, BitVec.toNat_sub]
  congr 2
  omega

/-- The rule of a bounded wait as R105's chain of tests: the deadline, then the level. -/
theorem waitRule_eq (failAt : Nat) (awaited : Level) (kind : ErrKind) (onEdge : State → State) (s : State) :
    waitRule failAt awaited kind onEdge s = if failAt ≤ elapsedOf s then raise kind s
      else if (sampleOf s).lineIn = awaited then onEdge s else s := by
  obtain ⟨hlate, h⟩ | ⟨hearly, hline, h⟩ | ⟨hearly, hline, h⟩ := waitRule_cases failAt awaited kind onEdge s
  · rw [h, if_pos hlate]
  · rw [h, if_neg (by omega), if_pos hline]
  · rw [h, if_neg (by omega), if_neg hline]

/-- Without reset the block's step is the operation that runs its phase's rule. -/
theorem step_eq_stepWith {s : State} {rule : State → State} (hrst : (sampleOf s).rst = false)
    (hrule : phaseRule s = rule s) : step s = stepWith rule s := by
  rw [step_of_running s hrst, stepWith_next rule s hrst, hrule]

/-- One step without reset of a phase whose rule is a bounded wait: what its operation answers, with the elapsed time
as the statements write it, and that the block's step is that operation. -/
theorem exec_wait {s : State} {e failAt : Nat} {awaited : Level} {kind : ErrKind} {onEdge rule : State → State}
    {i : Instr} (hexec : exec i s = stepWith rule s) (hphase : phaseRule s = rule s)
    (hwait : rule s = waitRule failAt awaited kind onEdge s) (hrst : (sampleOf s).rst = false)
    (he : e = ((sampleOf s).now.toNat + 2 ^ 32 - s.tStart.toNat) % 2 ^ 32 % 2 ^ s.cfg.nowWidth) :
    exec i s = .next (finish s (if failAt ≤ e then raise kind s
      else if (sampleOf s).lineIn = awaited then onEdge s else s)) ∧
    step s = exec i s := by
  have helapsed : elapsedOf s = e := (elapsedOf_eq s).trans he.symm
  constructor
  · rw [hexec, stepWith_next rule s hrst, hwait, waitRule_eq, helapsed]
  · rw [hexec, step_eq_stepWith hrst hphase]

/-- Settles O20: ACK_WAIT_LOW is a bounded wait for LOW that leads to ACK_LOW, with the line released. -/
theorem ackWaitLowWaitsForLow : Obligations.AckWaitLowWaitsForLow := by
  intro s e hphase hrst he
  obtain ⟨hexec, hstep⟩ := exec_wait (i := .stepAckWaitLow) (rule := ackWaitLowRule) rfl
    (by simp only [phaseRule, hphase]) rfl hrst he
  exact ⟨hexec, hstep, congrArg lineDir hphase, congrArg Params.ackP1FailAt⟩

/-- Settles O21: ACK_LOW is a bounded wait for HIGH that leads to ACK_HIGH. -/
theorem ackLowWaitsForHigh : Obligations.AckLowWaitsForHigh := by
  intro s e hphase hrst he
  obtain ⟨hexec, hstep⟩ := exec_wait (i := .stepAckLow) (rule := ackLowRule) rfl
    (by simp only [phaseRule, hphase]) rfl hrst he
  exact ⟨hexec, hstep, congrArg Params.ackP2FailAt⟩

/-- Settles O22: ACK_HIGH is a bounded wait for LOW that leads to decoding, where `acc` and `bitcnt` begin at 0. -/
theorem ackHighEntersDecoding : Obligations.AckHighEntersDecoding := by
  intro s e hphase hrst he
  obtain ⟨hexec, hstep⟩ := exec_wait (i := .stepAckHigh) (rule := ackHighRule) rfl
    (by simp only [phaseRule, hphase]) rfl hrst he
  exact ⟨hexec, hstep, congrArg Params.ackP3FailAt⟩

end Sys2Proof
end

section
/-! PROOFS. The accumulator of 41_bit_decoder.md R123: where one shift puts each symbol, where a symbol stands after the
later shifts, and that a duration in neither window shifts nothing. -/

namespace Sys2Proof

open Machine

/-- A shift puts its symbol into bit 0. -/
theorem extractLsb'_zero_shiftIn (a : FrameWord) (b : BitVec 1) : (shiftIn 40 a b).extractLsb' 0 1 = b := by
  rw [shiftIn_eq_or]
  apply BitVec.eq_of_getLsbD_eq
  intro k hk
  obtain rfl : k = 0 := by omega
  simp

/-- A shift moves every bit below bit 39 up by one place. -/
theorem extractLsb'_succ_shiftIn (a : FrameWord) (b : BitVec 1) {d : Nat} (hd : d + 1 < 40) :
    (shiftIn 40 a b).extractLsb' (d + 1) 1 = a.extractLsb' d 1 := by
  rw [shiftIn_eq_or]
  apply BitVec.eq_of_getLsbD_eq
  intro k hk
  obtain rfl : k = 0 := by omega
  simp [hd, BitVec.getLsbD_eq_getElem (Nat.lt_of_succ_lt hd)]

/-- The symbol of iteration `i` stands at bit `d` after `d` further shifts, whatever the accumulator held before. -/
theorem extractLsb'_foldl_shiftIn (symbol : Nat → BitVec 1) (a : FrameWord) (i d : Nat) (hd : d < 40) :
    ((List.range (i + 1 + d)).foldl (fun x j => shiftIn 40 x (symbol j)) a).extractLsb' d 1 = symbol i := by
  induction d with
  | zero =>
    rw [Nat.add_zero, List.range_succ, List.foldl_append]
    exact extractLsb'_zero_shiftIn _ (symbol i)
  | succ d ih =>
    rw [← Nat.add_assoc, List.range_succ, List.foldl_append]
    exact (extractLsb'_succ_shiftIn _ _ hd).trans (ih (by omega))

/-- In BIT_HIGH only a falling edge with a duration in a window shifts. -/
theorem bitHighRule_acc_of_classify_none {s : State} (h : classify s.cfg (elapsedOf s) = none) :
    (bitHighRule s).acc = s.acc := by
  obtain ⟨b, -, hsome, -⟩ | ⟨-, -, hfault⟩ | ⟨b, -, -, -, hbound⟩ | ⟨-, -, hstay⟩ := bitHighRule_cases s
  · rw [h] at hsome
    cases hsome
  · rw [hfault, raise_acc]
  · rw [hbound, raise_acc]
  · rw [hstay]

/-- Settles O28: the shift as a number, the place of each of forty symbols as that of a symbol `39 - i` shifts after its
own, and the BIT_HIGH step that shifts nothing. -/
theorem fortyShiftsPutTheFirstSymbolOnTop : Obligations.FortyShiftsPutTheFirstSymbolOnTop := by
  refine ⟨fun a b => ?shiftAsNumber, fun symbol a i hi => ?placeOfSymbol, fun s t hphase hrst hnone hstep => ?noShift⟩
  case shiftAsNumber =>
    rw [shiftIn, BitVec.toNat_ofNat, Nat.mod_mod]
  case placeOfSymbol =>
    have hplace := extractLsb'_foldl_shiftIn symbol a i (39 - i) (by omega)
    rwa [show i + 1 + (39 - i) = 40 by omega] at hplace
  case noShift =>
    have hrule : phaseRule s = bitHighRule s := by simp only [phaseRule, hphase]
    rw [step_of_running s hrst, hrule] at hstep
    cases hstep
    rw [finish_acc, bitHighRule_acc_of_classify_none hnone]

end Sys2Proof
end

section
/-! PROOFS. The frame validator of 42_frame_validator.md: the checksum as arithmetic on the raw frame, and the VALIDATE
step as a choice on that arithmetic. -/

namespace Sys2Proof

open Machine

/-- Eight bits of a raw frame as a number: the byte that begins at bit `start`. -/
theorem toNat_byteAt (a : FrameWord) (start : Nat) : (a.extractLsb' start 8).toNat = a.toNat / 2 ^ start % 256 := by
  rw [BitVec.extractLsb'_toNat, Nat.shiftRight_eq_div_pow]

/-- The byte sum as a number: truncation to 8 bits after each addition is one reduction of the whole sum. -/
theorem toNat_byteSum (a : FrameWord) : (byteSum a).toNat =
    (a.toNat / 2 ^ 32 % 256 + a.toNat / 2 ^ 24 % 256 + a.toNat / 2 ^ 16 % 256 + a.toNat / 2 ^ 8 % 256) % 256 := by
  simp only [byteSum, BitVec.toNat_add, toNat_byteAt]
  omega

/-- Settles O27: two bytes are equal iff they are equal as numbers, and the two sides of the test as numbers are the
reduced byte sum and the lowest byte. -/
theorem checksumIsTheByteSum : Obligations.ChecksumIsTheByteSum := by
  intro a
  have hlow : (a.extractLsb' 0 8).toNat = a.toNat % 256 := by
    rw [toNat_byteAt, Nat.pow_zero, Nat.div_one]
  rw [checksumOk, beq_iff_eq, ← BitVec.toNat_inj, toNat_byteSum, hlow]

/-- The VALIDATE rule as a choice on any condition that says what the checksum test says. -/
theorem validateRule_eq {s : State} {p : Prop} [Decidable p] (hp : checksumOk s.acc = true ↔ p) :
    validateRule s = if p then { s with frame := s.acc, phase := .idle } else raise .checksumInvalid s := by
  obtain ⟨hok, h⟩ | ⟨hbad, h⟩ := validateRule_cases s
  · rw [h, if_pos (hp.mp hok)]
  · rw [h, if_neg (fun hsum => Bool.false_ne_true (hbad.symm.trans (hp.mpr hsum)))]

/-- Settles O26: without reset VALIDATE is its rule, which chooses by the checksum's arithmetic, and the block's step in
that phase is the same operation. -/
theorem validatePromotesOrRaises : Obligations.ValidatePromotesOrRaises := by
  intro s hphase hrst
  have hexec : exec .stepValidate s = stepWith validateRule s := rfl
  have hrule : phaseRule s = validateRule s := by simp only [phaseRule, hphase]
  constructor
  · rw [hexec, stepWith_next validateRule s hrst, validateRule_eq (checksumIsTheByteSum s.acc)]
    rfl
  · rw [hexec, step_eq_stepWith hrst hrule]

end Sys2Proof
end

section
/-! PROOFS. The reading model of 43_reading_model.md: each accessor as the one output it shows, and the temperature
field's sign and magnitude as arithmetic on the raw frame. -/

namespace Sys2Proof

open Machine

/-- GETERR as an update of what is shown. -/
theorem exec_geterr (s : State) :
    exec .geterr s = .next (showing (fun o => { o with errOut := errCode s.err }) s) :=
  readPort_next _ s

/-- TEMPSIGN_MAG as an update of what is shown. -/
theorem exec_tempsignMag (s : State) :
    exec .tempsignMag s =
      .next (showing (fun o => { o with tempSign := tempSign s.frame, tempMag := tempMag s.frame }) s) :=
  readPort_next _ s

/-- The sign flag as a number: bit 23 of the raw frame. -/
theorem toNat_tempSign (f : FrameWord) : (tempSign f).toNat = f.toNat / 2 ^ 23 % 2 := by
  rw [tempSign, BitVec.extractLsb'_toNat, Nat.shiftRight_eq_div_pow, Nat.pow_one]

/-- The magnitude as a number: bits 22 to 8 of the raw frame. -/
theorem toNat_tempMag (f : FrameWord) : (tempMag f).toNat = f.toNat / 2 ^ 8 % 2 ^ 15 := by
  rw [tempMag, BitVec.extractLsb'_toNat, Nat.shiftRight_eq_div_pow]

/-- The sign is set iff bit 23 of the raw frame is 1. -/
theorem tempSign_eq_one_iff (f : FrameWord) : tempSign f = 1#1 ↔ f.toNat / 2 ^ 23 % 2 = 1 := by
  rw [← BitVec.toNat_inj, toNat_tempSign, BitVec.toNat_ofNat, Nat.pow_one, Nat.one_mod]

/-- A magnitude of 15 bits is at most 32767. -/
theorem toNat_tempMag_le (f : FrameWord) : (tempMag f).toNat ≤ 32767 :=
  Nat.le_of_lt_succ (tempMag f).isLt

/-- The exact temperature with its sign and magnitude read off the raw frame as a number. -/
theorem tempTenthsExact_eq (f : FrameWord) :
    tempTenthsExact f = if f.toNat / 2 ^ 23 % 2 = 1 then -((f.toNat / 2 ^ 8 % 2 ^ 15 : Nat) : Int)
      else ((f.toNat / 2 ^ 8 % 2 ^ 15 : Nat) : Int) := by
  simp only [tempTenthsExact, tempSign_eq_one_iff, toNat_tempMag]

/-- The exact temperature lies as far from 0 as its magnitude says, on either side. -/
theorem natAbs_tempTenthsExact (f : FrameWord) : (tempTenthsExact f).natAbs = (tempMag f).toNat := by
  rw [tempTenthsExact]
  split
  · rw [Int.natAbs_neg, Int.natAbs_natCast]
  · rw [Int.natAbs_natCast]

/-- Settles O33: the two shown fields are words of their own arithmetic, the exact value follows that arithmetic, and
its range is that of a 15-bit magnitude on both sides of 0. -/
theorem signAndMagnitudeAreShown : Obligations.SignAndMagnitudeAreShown := by
  intro s
  have hmag := toNat_tempMag_le s.frame
  rw [← natAbs_tempTenthsExact] at hmag
  refine ⟨?shown, tempTenthsExact_eq s.frame, by omega, by omega⟩
  case shown =>
    rw [exec_tempsignMag, ← toNat_tempSign, ← toNat_tempMag, BitVec.ofNat_toNat, BitVec.setWidth_eq,
      BitVec.ofNat_toNat, BitVec.setWidth_eq]
    rfl

/-- Settles O30: GETERR shows the latch's code and touches nothing else, and the statement's table is the one `errCode`
is defined by (R75). -/
theorem geterrShowsTheLatch : Obligations.GeterrShowsTheLatch :=
  fun s => exec_geterr s

end Sys2Proof
end

section
/-! PROOFS. The command CLRERR of 44_commands.md section 4: outside IDLE no rule looks at `cmd`, and short of reset only
an accepted CLRERR takes the latch back to NONE. -/

namespace Sys2Proof

open Machine

/-- Taking a fault reads no input port. -/
theorem raise_present (k : ErrKind) (f : Inputs → Inputs) (s : State) :
    raise k (present f s) = present f (raise k s) := rfl

/-- VALIDATE reads no input port (R140). -/
theorem validateRule_present (f : Inputs → Inputs) (s : State) :
    validateRule (present f s) = present f (validateRule s) :=
  (apply_ite (present f) (checksumOk s.acc = true) { s with frame := s.acc, phase := .idle }
    (raise .checksumInvalid s)).symm

section PresentedSample

/-! A change of the presented sample that keeps `now` and `line_in` commutes with every phase's rule but that of IDLE
(10_state.md R30, 44_commands.md R175). -/

variable {f : Inputs → Inputs} (hnow : ∀ i, (f i).now = i.now) (hline : ∀ i, (f i).lineIn = i.lineIn)

include hnow

/-- Of the sample the elapsed time hangs on `now` alone (R8). -/
theorem elapsedOf_present (s : State) : elapsedOf (present f s) = elapsedOf s := by
  simp only [elapsedOf, sampleOf_present, hnow, present_tStart, present_cfg]

/-- Entering a timed phase reads `now` alone (R24). -/
theorem enter_present (ph : Phase) (s : State) : enter ph (present f s) = present f (enter ph s) := by
  rw [enter, sampleOf_present, hnow]
  rfl

/-- Entering decoding reads `now` alone (R104). -/
theorem enterDecoding_present (s : State) : enterDecoding (present f s) = present f (enterDecoding s) := by
  rw [enterDecoding, sampleOf_present, hnow]
  rfl

/-- Ending a bit reads `now` alone (R123). -/
theorem endBit_present (b : BitVec 1) (s : State) : endBit b (present f s) = present f (endBit b s) := by
  rw [endBit, sampleOf_present, hnow]
  rfl

/-- START_LOW reads `now` alone (R101). -/
theorem startLowRule_present (s : State) : startLowRule (present f s) = present f (startLowRule s) := by
  rw [startLowRule, startLowRule, elapsedOf_present hnow, enter_present hnow, present_cfg, apply_ite (present f)]

/-- The falling edge reads `now` alone (R121). -/
theorem fallingEdge_present (s : State) : fallingEdge (present f s) = present f (fallingEdge s) := by
  rw [fallingEdge, fallingEdge, elapsedOf_present hnow, present_cfg]
  cases classify s.cfg (elapsedOf s) with
  | some b => exact endBit_present hnow b s
  | none => exact raise_present _ f s

/-- A line still HIGH reads `now` alone, for the optional bound (R121). -/
theorem stillHigh_present (s : State) : stillHigh (present f s) = present f (stillHigh s) := by
  rw [stillHigh, stillHigh, elapsedOf_present hnow, present_cfg]
  cases s.cfg.bitHighMax with
  | some b => exact (apply_ite (present f) (b ≤ elapsedOf s) (raise .readLengthInvalid s) s).symm
  | none => rfl

include hline

/-- A bounded wait reads `now` and `line_in` alone, if its exit does (R105). -/
theorem waitRule_present {failAt : Nat} {awaited : Level} {kind : ErrKind} {onEdge : State → State} (s : State)
    (hedge : onEdge (present f s) = present f (onEdge s)) :
    waitRule failAt awaited kind onEdge (present f s) = present f (waitRule failAt awaited kind onEdge s) := by
  rw [waitRule_eq, waitRule_eq, elapsedOf_present hnow, sampleOf_present, hline, hedge, raise_present,
    apply_ite (present f), apply_ite (present f)]

/-- BIT_HIGH reads `now` and `line_in` alone (R121). -/
theorem bitHighRule_present (s : State) : bitHighRule (present f s) = present f (bitHighRule s) := by
  rw [bitHighRule, bitHighRule, sampleOf_present, hline]
  cases (sampleOf s).lineIn with
  | low => exact fallingEdge_present hnow s
  | high => exact stillHigh_present hnow s

/-- Outside IDLE the phase's rule reads `now` and `line_in` alone, so it does not see what `cmd` holds (R175). -/
theorem phaseRule_present {s : State} (hbusy : s.phase ≠ .idle) :
    phaseRule (present f s) = present f (phaseRule s) := by
  rw [phaseRule, phaseRule, present_phase]
  cases hphase : s.phase with
  | idle => exact absurd hphase hbusy
  | startLow => exact startLowRule_present hnow s
  | ackWaitLow => exact waitRule_present hnow hline s (enter_present hnow .ackLow s)
  | ackLow => exact waitRule_present hnow hline s (enter_present hnow .ackHigh s)
  | ackHigh => exact waitRule_present hnow hline s (enterDecoding_present hnow s)
  | bitLow => exact waitRule_present hnow hline s (enter_present hnow .bitHigh s)
  | bitHigh => exact bitHighRule_present hnow hline s
  | validate => exact validateRule_present f s

end PresentedSample

/-- A command presented to a busy block is lost: the step is the phase's own on the sample as it was (R175). -/
theorem command_busy_eq (code : BitVec 2) (effect : State → State) {s : State} (hbusy : s.phase ≠ .idle) :
    command code effect s = .next (finish s (phaseRule s)) := by
  have hrule := phaseRule_present (f := fun i => { i with rst := false, cmd := code }) (fun _ => rfl)
    (fun _ => rfl) hbusy
  rw [command_busy code effect s hbusy, hrule, finish_of_present, finish_present _ _ _ rfl]

/-- What a phase's rule can do to the latch: keep it, take a fault, or, in IDLE and at CLRERR only, clear it
(60_exceptions.md R205 to R209). -/
theorem phaseRule_err_cases (s : State) :
    (phaseRule s).err = s.err ∨ (∃ k, phaseRule s = raise k s ∧ k ≠ .none) ∨
    (s.phase = .idle ∧ (sampleOf s).cmd = cmdClrerr ∧ phaseRule s = clearErr s) := by
  have hkept {t : State} (h : phaseRule s = t) (herr : t.err = s.err) : (phaseRule s).err = s.err := h ▸ herr
  obtain hstay | ⟨hidle, ⟨-, hread⟩ | ⟨hcmd, hclear⟩⟩ | ⟨-, hrelease⟩ | ⟨-, hfault | hedge⟩ | ⟨-, hfault | hedge⟩ |
    ⟨-, hfault | hedge⟩ | ⟨-, hfault | hedge⟩ | ⟨-, hfault | ⟨b, hbit⟩⟩ | ⟨-, ⟨-, hfault⟩ | ⟨-, hpromote⟩⟩ :=
    phaseRule_cases s
  · exact .inl (hkept hstay rfl)
  · exact .inl (hkept hread rfl)
  · exact .inr (.inr ⟨hidle, hcmd, hclear⟩)
  · exact .inl (hkept hrelease rfl)
  · exact .inr (.inl ⟨_, hfault, nofun⟩)
  · exact .inl (hkept hedge rfl)
  · exact .inr (.inl ⟨_, hfault, nofun⟩)
  · exact .inl (hkept hedge rfl)
  · exact .inr (.inl ⟨_, hfault, nofun⟩)
  · exact .inl (hkept hedge rfl)
  · exact .inr (.inl ⟨_, hfault, nofun⟩)
  · exact .inl (hkept hedge rfl)
  · exact .inr (.inl ⟨_, hfault, nofun⟩)
  · exact .inl (hkept hbit rfl)
  · exact .inr (.inl ⟨_, hfault, nofun⟩)
  · exact .inl (hkept hpromote rfl)

/-- Settles O16: CLRERR in IDLE is `clearErr` on the sample that carries it; a busy block loses CLRERR and NOP alike; and
of a step without reset only an accepted CLRERR leaves NONE where a fault stood. -/
theorem clrerrClearsOnlyTheLatch : Obligations.ClrerrClearsOnlyTheLatch := by
  refine ⟨fun s hidle => ?accepted, fun s hbusy => ?lost, fun s t hstep hfault hnone => ?onlyWayBack⟩
  case accepted =>
    have hexec : exec .clrerr s = command cmdClrerr clearErr s := rfl
    rw [hexec, command_idle cmdClrerr clearErr s hidle, finish_present _ _ _ rfl]
    rfl
  case lost =>
    have hclrerr : exec .clrerr s = command cmdClrerr clearErr s := rfl
    have hnop : exec .nop s = command cmdNop (fun t => t) s := rfl
    rw [hclrerr, hnop, command_busy_eq _ _ hbusy, command_busy_eq _ _ hbusy]
  case onlyWayBack =>
    cases hrst : (sampleOf s).rst with
    | true => exact .inl rfl
    | false =>
      rw [step_of_running s hrst] at hstep
      cases hstep
      rw [finish_err] at hnone
      obtain hkept | ⟨k, hraise, hk⟩ | ⟨hidle, hcmd, -⟩ := phaseRule_err_cases s
      · exact absurd (hkept.symm.trans hnone) hfault
      · rw [hraise, raise_err] at hnone
        exact absurd hnone hk
      · exact .inr ⟨hidle, hcmd⟩

end Sys2Proof
end

section
/-! PROOFS. The stuck-high hang of 70_reset_and_hazards.md R242: with no bound on BIT_HIGH a line that stays HIGH leaves
the block where it is, and only a reset ends the attempt. -/

namespace Sys2Proof

open Machine

/-- The sample a block reads after `j` of its next `n` samples have been used up is one of those `n`. -/
theorem sampleOf_mem_take {t : State} {l : List Inputs} {j n : Nat} (hj : j < n) (hn : n ≤ l.length)
    (hinputs : t.inputs = l.drop j) : sampleOf t ∈ l.take n := by
  have hlen : j < l.length := Nat.lt_of_lt_of_le hj hn
  rw [sampleOf_of_inputs (hinputs.trans (List.drop_eq_getElem_cons hlen))]
  exact List.mem_take_iff_getElem.mpr ⟨j, by omega, rfl⟩

/-- With no bound configured, BIT_HIGH changes nothing while the line is HIGH, whatever the elapsed time (R121, decision
D5). -/
theorem bitHighRule_of_high_of_unbounded {s : State} (hbound : s.cfg.bitHighMax = none)
    (hline : (sampleOf s).lineIn = .high) : bitHighRule s = s := by
  rw [bitHighRule, hline]
  simp only [stillHigh, hbound]

/-- `busy` is 1 in every phase but IDLE (R29 (b)). -/
theorem busy_eq_true_iff (s : State) : busy s = true ↔ s.phase ≠ .idle :=
  decide_eq_true_iff

/-- `busy` is 0 in IDLE (R29 (b)). -/
theorem busy_eq_false_of_idle {s : State} (hidle : s.phase = .idle) : busy s = false :=
  decide_eq_false (not_not_intro hidle)

/-- A step whose sample is given `rst` = 1 ends any attempt: it answers a block that is not busy (R174). -/
theorem step_present_rst_not_busy (s : State) :
    ∃ t : State, step (present (fun i => { i with rst := true }) s) = .next t ∧ busy t = false :=
  ⟨_, step_of_reset _ rfl, busy_eq_false_of_idle rfl⟩

/-- Settles O55: each of the HIGH samples finds the block in BIT_HIGH with no bound, where its rule does nothing, so the
run stays (`run_stay`) and BIT_HIGH is busy; the reset then overrides the phase. -/
theorem stuckHighLineHangsTheAttempt : Obligations.StuckHighLineHangsTheAttempt := by
  intro n s hbound hphase hlen hstuck
  have hstays : ∀ j < n, ∀ u : State, SameRegisters s u → u.cfg = s.cfg → u.inputs = s.inputs.drop j →
      (sampleOf u).rst = false ∧ phaseRule u = u := by
    intro j hj u ⟨_, _, _, _, hsame, _⟩ hcfg hinputs
    obtain ⟨hrst, hline⟩ := hstuck _ (sampleOf_mem_take hj hlen hinputs)
    have hrule : phaseRule u = bitHighRule u := by simp only [phaseRule, ← hsame, hphase]
    exact ⟨hrst, hrule.trans (bitHighRule_of_high_of_unbounded (hcfg ▸ hbound) hline)⟩
  obtain ⟨t, hrun, hregs, -, -⟩ := run_stay n s hstays
  have ⟨_, _, _, _, hsame, _⟩ := hregs
  have hbusy : busy t = true := (busy_eq_true_iff t).mpr (by rw [← hsame, hphase]; exact nofun)
  exact ⟨t, hrun, hregs, hbusy, step_present_rst_not_busy t⟩

end Sys2Proof
end

section
/-! PROOFS. The codes of 30_encoding.md: decoder and encoder undo each other on every place, and a step is the operation
its fetched code decodes to. -/

namespace Sys2Proof

open Machine

/-- Settles O1: a row without an operand decodes by evaluation; an operand that fills its place is read back whole; a
reserved error code or a duration comes back under its row because the operand lies in that row's range. -/
theorem decodeOfEncodeIsTheOperation : Obligations.DecodeOfEncodeIsTheOperation := by
  have hdur {d : Micros} {i : Instr} (hrow : i = .durShort d ∨ i = .sym0 d ∨ i = .sym1 d ∨ i = .durLong d)
      (hwf : i.wellFormed = true) : decode ⟨.dur, d.toNat⟩ = .instr i := by
    rw [decode_dur, decodeDur_eq_of_wellFormed hrow hwf]
  intro i hwf
  cases i with
  | cmdIgnored c => simp [encode, decode_of_fits .cmdBusy _ c.isLt, decodeFitting]
  | errReserved c =>
    have hrange := (wellFormed_errReserved c).mp hwf
    revert c
    decide
  | frame f => simp [encode, decode_of_fits .frame _ f.isLt, decodeFitting]
  | durShort d => exact hdur (.inl rfl) hwf
  | sym0 d => exact hdur (.inr (.inl rfl)) hwf
  | sym1 d => exact hdur (.inr (.inr (.inl rfl))) hwf
  | durLong d => exact hdur (.inr (.inr (.inr rfl))) hwf
  | _ => rfl

/-- Every `cmd` code is the code of the command it decodes to (R73). -/
theorem encode_decodeCmd : ∀ bits < 4, (decodeCmd bits).wellFormed = true ∧ encode (decodeCmd bits) = ⟨.cmd, bits⟩ := by
  decide

/-- Every `phase` code is the code of the phase step it selects (R74). -/
theorem encode_decodePhase :
    ∀ bits < 8, (decodePhase bits).wellFormed = true ∧ encode (decodePhase bits) = ⟨.phase, bits⟩ := by
  decide

/-- Every `err` code, the reserved ones among them, is the code of the row it decodes to (R75). -/
theorem encode_decodeErr : ∀ bits < 8, (decodeErr bits).wellFormed = true ∧ encode (decodeErr bits) = ⟨.err, bits⟩ := by
  decide

/-- The class of a duration keeps the whole duration as its operand (R77). -/
theorem encode_decodeDur (d : Micros) : encode (decodeDur d) = ⟨.dur, d.toNat⟩ := by
  obtain ⟨-, h⟩ | ⟨-, -, h⟩ | ⟨-, -, h⟩ | ⟨-, h⟩ := decodeDur_cases d <;> rw [h] <;> rfl

/-- Every code an output is read with is the code of its accessor: that of `unit` for `temp_out`, elsewhere the empty
one (R79). -/
theorem encode_decodePort (p : ReadPort) : ∀ bits < 2 ^ placeWidth (.port p),
    (decodePort p bits).wellFormed = true ∧ encode (decodePort p bits) = ⟨.port p, bits⟩ := by
  cases p <;> decide

/-- A code that fits its place and stands for an operation is the code of that operation, place by place. -/
theorem encode_of_decodeFitting {place : Place} {bits : Nat} {i : Instr} (hfits : bits < 2 ^ placeWidth place)
    (hdec : decodeFitting place bits = .instr i) : i.wellFormed = true ∧ encode i = ⟨place, bits⟩ := by
  cases place with
  | rst =>
    obtain rfl | rfl := Nat.le_one_iff_eq_zero_or_eq_one.mp (Nat.le_of_lt_succ hfits)
    · cases hdec
    · cases hdec; exact ⟨rfl, rfl⟩
  | cmd => cases hdec; exact encode_decodeCmd bits hfits
  | cmdBusy => cases hdec; exact ⟨rfl, congrArg _ (Nat.mod_eq_of_lt hfits)⟩
  | phase => cases hdec; exact encode_decodePhase bits hfits
  | err => cases hdec; exact encode_decodeErr bits hfits
  | frame => cases hdec; exact ⟨rfl, congrArg _ (Nat.mod_eq_of_lt hfits)⟩
  | dur =>
    cases hdec
    exact ⟨wellFormed_decodeDur _, (encode_decodeDur _).trans (congrArg _ (Nat.mod_eq_of_lt hfits))⟩
  | level =>
    obtain rfl | rfl := Nat.le_one_iff_eq_zero_or_eq_one.mp (Nat.le_of_lt_succ hfits)
    all_goals cases hdec; exact ⟨rfl, rfl⟩
  | dir =>
    obtain rfl | rfl := Nat.le_one_iff_eq_zero_or_eq_one.mp (Nat.le_of_lt_succ hfits)
    all_goals cases hdec; exact ⟨rfl, rfl⟩
  | unit =>
    obtain rfl | rfl := Nat.le_one_iff_eq_zero_or_eq_one.mp (Nat.le_of_lt_succ hfits)
    all_goals cases hdec; exact ⟨rfl, rfl⟩
  | port p => cases hdec; exact encode_decodePort p bits hfits

/-- A code that decodes fits its place and is decoded there. -/
theorem fits_of_decode {w : CodeWord} {i : Instr} (hdec : decode w = .instr i) :
    w.bits < 2 ^ placeWidth w.place ∧ decodeFitting w.place w.bits = .instr i := by
  by_cases hfits : w.bits < 2 ^ placeWidth w.place
  · exact ⟨hfits, (decode_of_fits _ _ hfits).symm.trans hdec⟩
  · cases (decode_of_not_fits _ _ hfits).symm.trans hdec

/-- Settles O2: what decodes fits its place, and on each place the fitting codes are those of the operations there. -/
theorem encodeOfDecodeIsTheCode : Obligations.EncodeOfDecodeIsTheCode := by
  intro w i hdec
  obtain ⟨hfits, hfitting⟩ := fits_of_decode hdec
  exact encode_of_decodeFitting hfits hfitting

/-- Settles O3: the decoder evaluated on codes written out from the tables. -/
theorem writtenCodesDecode : Obligations.WrittenCodesDecode := by
  unfold Obligations.WrittenCodesDecode
  decide

/-- A fetched code that decodes is run. -/
theorem step_of_decode {s : State} {i : Instr} (hdec : decode (fetchWord s) = .instr i) : step s = exec i s := by
  rw [step, hdec]

/-- Settles O6: a step runs what its fetched code decodes to, and the fetched code is the statement's by definition. -/
theorem stepRunsTheDecodedOperation : Obligations.StepRunsTheDecodedOperation :=
  fun _ _ hdec => ⟨step_of_decode hdec, rfl⟩

/-- Without reset the step is the operation the `phase` register selects (R212 (2)). -/
theorem step_eq_exec_phase {s : State} (hrst : (sampleOf s).rst = false) :
    step s = exec (decodePhase (phaseCode s.phase).toNat) s := by
  apply step_of_decode
  rw [fetchWord, hrst, if_neg Bool.false_ne_true, decode_phaseCode]

/-- Settles O7: every row's meaning is a step, a step of a changed sample or the read of an output, and each of those
answers; so does the step of the block. -/
theorem everyOperationAnswersANextState : Obligations.EveryOperationAnswersANextState := by
  refine ⟨fun i s => ?_, fun s => ⟨_, step_eq s⟩⟩
  cases i <;> exact ⟨_, rfl⟩

end Sys2Proof
end

section
/-! PROOFS. What every step keeps (10_state.md R22, R24, R27; 60_exceptions.md R200 to R208; 30_encoding.md section 4).
`PhaseEffect` lists once what a step without reset can do, with the condition of each effect; every invariant is a case
analysis of that list. -/

namespace Sys2Proof

open Machine

/-- The condition of each fault kind (60_exceptions.md R200 to R204), the bounds and windows being the block's. -/
def FaultCondition (s : State) (k : ErrKind) : Prop :=
  match k with
  | .none => False
  | .pastReadIntervalLimit => s.phase = .bitLow ∧ s.cfg.bitLowFailAt ≤ elapsedOf s
  | .readLengthInvalid => s.phase = .bitHigh ∧
      ((sampleOf s).lineIn = .low ∧ classify s.cfg (elapsedOf s) = none ∨
        (sampleOf s).lineIn = .high ∧ ∃ b ∈ s.cfg.bitHighMax, b ≤ elapsedOf s)
  | .checksumInvalid => s.phase = .validate ∧ checksumOk s.acc = false
  | .unacknowledgedTransmission => s.phase = .ackWaitLow ∧ s.cfg.ackP1FailAt ≤ elapsedOf s ∨
      s.phase = .ackLow ∧ s.cfg.ackP2FailAt ≤ elapsedOf s ∨ s.phase = .ackHigh ∧ s.cfg.ackP3FailAt ≤ elapsedOf s

/-- The transitions that only enter the next timed phase (40_handshake.md sections 2 to 4, 41_bit_decoder.md
section 1). -/
def timedEdges : List (Phase × Phase) :=
  [(.startLow, .ackWaitLow), (.ackWaitLow, .ackLow), (.ackLow, .ackHigh), (.bitLow, .bitHigh)]

/-- The registers a step without reset can leave, `PhaseEffect s t` being that it leaves those of `t`. -/
inductive PhaseEffect (s : State) : State → Prop
  | stay (hphase : s.phase ≠ .validate) : PhaseEffect s s
  | startAttempt (hidle : s.phase = .idle) (hcmd : (sampleOf s).cmd = cmdRead) : PhaseEffect s (startAttempt s)
  | clearErr (hidle : s.phase = .idle) (hcmd : (sampleOf s).cmd = cmdClrerr) : PhaseEffect s (clearErr s)
  | enter (next : Phase) (hedge : (s.phase, next) ∈ timedEdges) : PhaseEffect s (enter next s)
  | enterDecoding (hphase : s.phase = .ackHigh) : PhaseEffect s (enterDecoding s)
  | endBit (b : BitVec 1) (hphase : s.phase = .bitHigh) : PhaseEffect s (endBit b s)
  | promote (hphase : s.phase = .validate) (hok : checksumOk s.acc = true) :
      PhaseEffect s { s with frame := s.acc, phase := .idle }
  | raise (k : ErrKind) (hcond : FaultCondition s k) : PhaseEffect s (raise k s)

/-- The bounded waits have the listed effects: their fault at the deadline, their exit, or none. -/
theorem phaseEffect_waitRule {s : State} {failAt : Nat} {awaited : Level} {kind : ErrKind} {onEdge : State → State}
    (hphase : s.phase ≠ .validate) (hlate : failAt ≤ elapsedOf s → FaultCondition s kind)
    (hedge : PhaseEffect s (onEdge s)) : PhaseEffect s (waitRule failAt awaited kind onEdge s) := by
  obtain ⟨hdeadline, h⟩ | ⟨-, -, h⟩ | ⟨-, -, h⟩ := waitRule_cases failAt awaited kind onEdge s
  · rw [h]; exact .raise kind (hlate hdeadline)
  · rw [h]; exact hedge
  · rw [h]; exact .stay hphase

/-- BIT_HIGH has the listed effects: a symbol or a fault at the falling edge, the bound's fault or none before it. -/
theorem phaseEffect_bitHighRule {s : State} (hphase : s.phase = .bitHigh) : PhaseEffect s (bitHighRule s) := by
  obtain ⟨b, -, -, h⟩ | ⟨hline, hclass, h⟩ | ⟨b, hline, hbound, hlate, h⟩ | ⟨-, -, h⟩ := bitHighRule_cases s
  · rw [h]; exact .endBit b hphase
  · rw [h]; exact .raise _ ⟨hphase, .inl ⟨hline, hclass⟩⟩
  · rw [h]; exact .raise _ ⟨hphase, .inr ⟨hline, b, hbound, hlate⟩⟩
  · rw [h]; exact .stay (by rw [hphase]; exact nofun)

/-- A step without reset has one of the listed effects. -/
theorem phaseEffect_phaseRule (s : State) : PhaseEffect s (phaseRule s) := by
  have hedge {next : Phase} (p : Phase) (hphase : s.phase = p) (hmem : (p, next) ∈ timedEdges) :
      PhaseEffect s (enter next s) := .enter next (hphase ▸ hmem)
  rw [phaseRule]
  cases hphase : s.phase with
  | idle =>
    obtain ⟨hcmd, h⟩ | ⟨hcmd, h⟩ | ⟨-, -, h⟩ := idleRule_cases s <;> simp only [h]
    · exact .startAttempt hphase hcmd
    · exact .clearErr hphase hcmd
    · exact .stay (by rw [hphase]; exact nofun)
  | startLow =>
    obtain ⟨-, h⟩ | ⟨-, h⟩ := startLowRule_cases s <;> simp only [h]
    · exact hedge _ hphase (by decide)
    · exact .stay (by rw [hphase]; exact nofun)
  | ackWaitLow =>
    exact phaseEffect_waitRule (by rw [hphase]; exact nofun) (fun hlate => .inl ⟨hphase, hlate⟩)
      (hedge _ hphase (by decide))
  | ackLow =>
    exact phaseEffect_waitRule (by rw [hphase]; exact nofun) (fun hlate => .inr (.inl ⟨hphase, hlate⟩))
      (hedge _ hphase (by decide))
  | ackHigh =>
    exact phaseEffect_waitRule (by rw [hphase]; exact nofun) (fun hlate => .inr (.inr ⟨hphase, hlate⟩))
      (.enterDecoding hphase)
  | bitLow =>
    exact phaseEffect_waitRule (by rw [hphase]; exact nofun) (fun hlate => ⟨hphase, hlate⟩)
      (hedge _ hphase (by decide))
  | bitHigh => exact phaseEffect_bitHighRule hphase
  | validate =>
    obtain ⟨hok, h⟩ | ⟨hbad, h⟩ := validateRule_cases s <;> simp only [h]
    · exact .promote hphase hok
    · exact .raise _ ⟨hphase, hbad⟩

/-- What a step of the block answers: a reset, or one of the listed effects. -/
theorem step_cases {s t : State} (hstep : step s = .next t) :
    ((sampleOf s).rst = true ∧ t = finish s (resetRegs s)) ∨
    ((sampleOf s).rst = false ∧ ∃ u, PhaseEffect s u ∧ t = finish s u) := by
  cases hrst : (sampleOf s).rst with
  | true =>
    rw [step_of_reset s hrst] at hstep
    cases hstep
    exact .inl ⟨rfl, rfl⟩
  | false =>
    rw [step_of_running s hrst] at hstep
    cases hstep
    exact .inr ⟨rfl, _, phaseEffect_phaseRule s, rfl⟩

/-- Settles O8: whatever registers it leaves, a step is closed by `finish`, which uses up the sample, counts the step
and shows the registers it began with. -/
theorem stepShowsItsStartAndUsesOneSample : Obligations.StepShowsItsStartAndUsesOneSample := by
  intro s t hstep
  rw [step_eq] at hstep
  cases hstep
  exact ⟨rfl, rfl, rfl, rfl, rfl, busy_eq_true_iff s⟩

/-! ### The invariant of R22, R24 and R27 -/

/-- The raw frame reaches `frame` only over the checksum test (R22). -/
theorem PhaseEffect.frameValid {s t : State} (heff : PhaseEffect s t) (hvalid : FrameValid s) : FrameValid t := by
  cases heff with
  | promote _ hok => exact hok
  | _ => exact hvalid

/-- Ending a bit in the loop keeps the counter in range: the counted bit is at most the `N_BITS`-th, and 6 bits hold
that (R27). -/
theorem endBit_countInRange {s : State} (b : BitVec 1) (hbits : s.cfg.nBits = 40)
    (hloop : s.bitcnt.toNat < s.cfg.nBits) : CountInRange (endBit b s) := by
  have hcount : (endBit b s).bitcnt.toNat = s.bitcnt.toNat + 1 := by
    rw [endBit_bitcnt, BitVec.toNat_add, BitVec.toNat_ofNat]
    omega
  rw [CountInRange, hcount, endBit_cfg]
  by_cases hlast : s.bitcnt.toNat + 1 = s.cfg.nBits
  · rw [endBit_phase_of_last b s hlast]
    exact ⟨by omega, nofun, fun _ => hlast⟩
  · rw [endBit_phase_of_earlier b s hlast]
    exact ⟨by omega, fun _ => by omega, nofun⟩

/-- The bit counter stays in range: it is cleared where decoding begins and counts only in the loop (R27, R140 (a)). -/
theorem PhaseEffect.countInRange {s t : State} (heff : PhaseEffect s t) (hbits : s.cfg.nBits = 40)
    (hcount : CountInRange s) : CountInRange t := by
  have ⟨hle, hloop, _⟩ := hcount
  cases heff with
  | stay => exact hcount
  | startAttempt => exact ⟨hle, nofun, nofun⟩
  | clearErr => exact hcount
  | enter next hedge =>
    have hnext : next ≠ .bitLow ∧ next ≠ .validate ∧ (next = .bitHigh → s.phase = .bitLow) := by
      revert hedge
      cases s.phase <;> cases next <;> decide
    exact ⟨hle, fun h => hloop (.inl (hnext.2.2 (h.resolve_left hnext.1))), fun h => absurd h hnext.2.1⟩
  | enterDecoding => exact ⟨Nat.zero_le _, fun _ => hbits ▸ Nat.succ_pos 39, nofun⟩
  | endBit b hphase => exact endBit_countInRange b hbits (hloop (.inr hphase))
  | promote => exact ⟨hle, nofun, nofun⟩
  | raise => exact ⟨hle, nofun, nofun⟩

/-- `t_start` is kept or loaded with the sampled counter (R24). -/
theorem PhaseEffect.tStart_cases {s t : State} (heff : PhaseEffect s t) :
    t.tStart = s.tStart ∨ t.tStart = (sampleOf s).now := by
  cases heff with
  | stay | clearErr | promote | raise => exact .inl rfl
  | startAttempt | enter | enterDecoding | endBit => exact .inr rfl

/-- The sampled counter has `W` bits if the presented samples have; the free ones are made so (R30, log 1). -/
theorem sampleOf_now_lt {s : State} (hsamples : ∀ i ∈ s.inputs, i.now.toNat < 2 ^ s.cfg.nowWidth) :
    (sampleOf s).now.toNat < 2 ^ s.cfg.nowWidth := by
  cases hinputs : s.inputs with
  | cons i rest =>
    rw [sampleOf_of_inputs hinputs]
    exact hsamples i (hinputs ▸ List.mem_cons_self)
  | nil =>
    have hfree : sampleOf s = freeSample s.cfg s.tick := by simp only [sampleOf, hinputs]
    rw [hfree, freeSample, BitVec.toNat_ofNat]
    exact Nat.lt_of_le_of_lt (Nat.mod_le _ _) (Nat.mod_lt _ (Nat.two_pow_pos _))

/-- The effects of a step write no parameter (R61). -/
theorem PhaseEffect.cfg_eq {s t : State} (heff : PhaseEffect s t) : t.cfg = s.cfg := by
  cases heff <;> rfl

/-- `t_start` and the samples that remain have `W` bits after a step that leaves a `t_start` of `W` bits. -/
theorem finish_timesFit {s t : State} (hcfg : t.cfg = s.cfg) (hfit : TimesFit s)
    (hstart : t.tStart.toNat < 2 ^ s.cfg.nowWidth) : TimesFit (finish s t) := by
  rw [TimesFit, finish_cfg, hcfg]
  exact ⟨hstart, fun i hi => hfit.2 i (List.mem_of_mem_tail hi)⟩

/-- Settles O47: a reset leaves 0 everywhere, and each effect of a step without reset keeps the valid frame, the range
of the counter and the width of the times. -/
theorem everyStepKeepsFrameValidAndCountInRange : Obligations.EveryStepKeepsFrameValidAndCountInRange := by
  intro s t ⟨hparams, hvalid, hcount, hfit⟩ hstep
  have hcfg : t.cfg = s.cfg := step_cfg s t hstep
  have hbits : s.cfg.nBits = 40 := by
    obtain ⟨hwidth, hframe, -⟩ := hparams
    exact hframe.trans hwidth
  refine ⟨⟨hcfg ▸ hparams, ?_⟩, hcfg⟩
  obtain ⟨-, rfl⟩ | ⟨-, u, heff, rfl⟩ := step_cases hstep
  · have hzero : checksumOk 0#40 = true := by decide
    exact ⟨hzero, ⟨Nat.zero_le _, nofun, nofun⟩, finish_timesFit rfl hfit (Nat.two_pow_pos _)⟩
  · have hstart : u.tStart.toNat < 2 ^ s.cfg.nowWidth := by
      obtain h | h := heff.tStart_cases
      · exact h ▸ hfit.1
      · exact h ▸ sampleOf_now_lt hfit.2
    exact ⟨heff.frameValid hvalid, heff.countInRange hbits hcount, finish_timesFit heff.cfg_eq hfit hstart⟩

/-- Settles O48: the registers and parameters of `State.reset` are literals, so each part is evaluated. -/
theorem resetStateMeetsTheInvariant : Obligations.ResetStateMeetsTheInvariant :=
  ⟨⟨by decide, by decide, by decide, by decide⟩, rfl⟩

/-! ### The frame, the latch and the transitions -/

/-- Settles O49: of the effects of a step only a reset and the promotion write `frame`. -/
theorem frameIsWrittenOnlyByPromotion : Obligations.FrameIsWrittenOnlyByPromotion := by
  intro s t hstep hchanged
  obtain ⟨hrst, rfl⟩ | ⟨hrst, u, heff, rfl⟩ := step_cases hstep
  · exact .inl ⟨hrst, rfl⟩
  · cases heff with
    | promote hphase hok => exact .inr ⟨hrst, hphase, hok, rfl, rfl⟩
    | _ => exact absurd rfl hchanged

/-- A fault has a kind, and its condition holds neither in IDLE nor in START_LOW (60_exceptions.md section 1). -/
theorem FaultCondition.ne {s : State} {k : ErrKind} (hcond : FaultCondition s k) :
    k ≠ .none ∧ s.phase ≠ .idle ∧ s.phase ≠ .startLow := by
  have hne {p : Phase} (hphase : s.phase = p) (hp : p ≠ .idle ∧ p ≠ .startLow) :
      s.phase ≠ .idle ∧ s.phase ≠ .startLow := hphase ▸ hp
  cases k with
  | none => exact hcond.elim
  | pastReadIntervalLimit => exact ⟨nofun, hne hcond.1 (by decide)⟩
  | readLengthInvalid => exact ⟨nofun, hne hcond.1 (by decide)⟩
  | checksumInvalid => exact ⟨nofun, hne hcond.1 (by decide)⟩
  | unacknowledgedTransmission =>
    obtain ⟨h, -⟩ | ⟨h, -⟩ | ⟨h, -⟩ := hcond <;> exact ⟨nofun, hne h (by decide)⟩

/-- Settles O50: of the effects of a step only a reset, CLRERR and a fault write `err`. -/
theorem latchIsSticky : Obligations.LatchIsSticky := by
  intro s t hstep
  obtain ⟨hrst, rfl⟩ | ⟨-, u, heff, rfl⟩ := step_cases hstep
  · exact .inr (.inl ⟨hrst, rfl⟩)
  · cases heff with
    | clearErr hidle hcmd => exact .inr (.inr (.inl ⟨hidle, hcmd, rfl⟩))
    | raise k hcond =>
      obtain ⟨hkind, hidle, hstart⟩ := hcond.ne
      exact .inr (.inr (.inr ⟨hidle, hstart, rfl, hkind, rfl⟩))
    | _ => exact .inl rfl

/-- The map of transitions of 30_encoding.md section 4. -/
def transitionMap : List (Phase × Phase) :=
  [(.idle, .idle), (.idle, .startLow), (.startLow, .startLow), (.startLow, .ackWaitLow), (.ackWaitLow, .ackWaitLow),
    (.ackWaitLow, .idle), (.ackWaitLow, .ackLow), (.ackLow, .ackLow), (.ackLow, .idle), (.ackLow, .ackHigh),
    (.ackHigh, .ackHigh), (.ackHigh, .idle), (.ackHigh, .bitLow), (.bitLow, .bitLow), (.bitLow, .idle),
    (.bitLow, .bitHigh), (.bitHigh, .bitHigh), (.bitHigh, .idle), (.bitHigh, .bitLow), (.bitHigh, .validate),
    (.validate, .idle)]

/-- In the map every phase but VALIDATE may stay, and every phase in which a fault has its condition may end. -/
theorem mem_transitionMap_of_stay_of_end : ∀ p : Phase, (p ≠ .validate → (p, p) ∈ transitionMap) ∧
    (p ≠ .idle ∧ p ≠ .startLow → (p, .idle) ∈ transitionMap) := by
  intro p
  cases p <;> decide

/-- Each effect of a step follows the map. -/
theorem PhaseEffect.mem_transitionMap {s t : State} (heff : PhaseEffect s t) : (s.phase, t.phase) ∈ transitionMap := by
  have hgo (p q : Phase) (hphase : s.phase = p) (hmem : (p, q) ∈ transitionMap) : (s.phase, q) ∈ transitionMap :=
    hphase ▸ hmem
  cases heff with
  | stay hphase => exact (mem_transitionMap_of_stay_of_end s.phase).1 hphase
  | startAttempt hidle => exact hgo .idle .startLow hidle (by decide)
  | clearErr hidle => exact (mem_transitionMap_of_stay_of_end s.phase).1 (by rw [hidle]; exact nofun)
  | enter next hedge =>
    have hsub : timedEdges ⊆ transitionMap := by decide
    exact hsub hedge
  | enterDecoding hphase => exact hgo .ackHigh .bitLow hphase (by decide)
  | endBit b hphase =>
    by_cases hlast : s.bitcnt.toNat + 1 = s.cfg.nBits
    · rw [endBit_phase_of_last b s hlast]
      exact hgo .bitHigh _ hphase (by decide)
    · rw [endBit_phase_of_earlier b s hlast]
      exact hgo .bitHigh _ hphase (by decide)
  | promote hphase => exact hgo .validate .idle hphase (by decide)
  | raise k hcond => exact (mem_transitionMap_of_stay_of_end s.phase).2 hcond.ne.2

/-- Settles O51: the effects of a step without reset all follow the map. -/
theorem phasesFollowTheTransitionMap : Obligations.PhasesFollowTheTransitionMap := by
  intro s t hrst hstep
  obtain ⟨hreset, -⟩ | ⟨-, u, heff, rfl⟩ := step_cases hstep
  · exact absurd (hrst.symm.trans hreset) Bool.false_ne_true
  · exact heff.mem_transitionMap

end Sys2Proof
end

section
/-! PROOFS. The outputs of 10_state.md R31, R32 as functions of the visible registers, and the reset of
44_commands.md section 5. -/

namespace Sys2Proof

open Machine

/-- Settles O37: each port reads `frame`, `err`, `phase` or `unit`. -/
theorem outputsHideTheHiddenRegisters : Obligations.OutputsHideTheHiddenRegisters := by
  intro u s t ⟨hframe, herr, hphase⟩
  simp only [ports, busy, hframe, herr, hphase]

/-- The line is driven in START_LOW only (R31). -/
theorem lineDir_eq_output_iff (ph : Phase) : lineDir ph = .output ↔ ph = .startLow := by
  cases ph <;> decide

/-- The line is driven LOW in START_LOW only (R31). -/
theorem lineDrv_eq_low_iff (ph : Phase) : lineDrv ph = .low ↔ ph = .startLow := by
  cases ph <;> decide

/-- Settles O29: the three ports are the functions of `phase` above. -/
theorem lineIsDrivenExactlyInStartLow : Obligations.LineIsDrivenExactlyInStartLow :=
  fun _ s => ⟨lineDir_eq_output_iff s.phase, lineDrv_eq_low_iff s.phase, busy_eq_true_iff s⟩

/-- A reset reads no input port. -/
theorem resetRegs_present (f : Inputs → Inputs) (s : State) : resetRegs (present f s) = present f (resetRegs s) := rfl

/-- RESET is the reset step whatever the sample holds (R174). -/
theorem exec_reset (s : State) : exec .reset s = .next (finish s (resetRegs s)) := by
  have hexec : exec .reset s = stepOf resetRegs (present (fun i => { i with rst := true }) s) := rfl
  rw [hexec, stepOf, resetRegs_present, finish_of_present, finish_present _ _ _ rfl]

/-- Settles O9: RESET and a step with `rst` = 1 both leave `resetRegs`, an idle block that does not drive the line. -/
theorem resetOverridesEverything : Obligations.ResetOverridesEverything := by
  rintro s r rfl
  exact ⟨exec_reset s, fun hrst => step_of_reset s hrst, busy_eq_false_of_idle rfl, rfl⟩

/-- The rows that are run as steps: the phase steps and, by log 7, log 8 and log 15, the ERR, FRAME and DUR rows. -/
def IsStepRow (i : Instr) : Prop :=
  (i = .stepIdle ∨ i = .stepStartLow ∨ i = .stepAckWaitLow ∨ i = .stepAckLow ∨ i = .stepAckHigh ∨ i = .stepBitLow ∨
    i = .stepBitHigh ∨ i = .stepValidate) ∨
  (i = .errNone ∨ i = .errPastReadIntervalLimit ∨ i = .errReadLengthInvalid ∨ i = .errChecksumInvalid ∨
    i = .errUnacknowledgedTransmission ∨ ∃ c, i = .errReserved c) ∨
  (∃ f, i = .frame f) ∨ (∃ d, i = .durShort d ∨ i = .sym0 d ∨ i = .sym1 d ∨ i = .durLong d)

/-- Each of these rows is a step with a rule of its own in it. -/
theorem exec_of_isStepRow {i : Instr} (hrow : IsStepRow i) : ∃ rule, exec i = stepWith rule := by
  obtain (rfl | rfl | rfl | rfl | rfl | rfl | rfl | rfl) | (rfl | rfl | rfl | rfl | rfl | ⟨c, rfl⟩) | ⟨f, rfl⟩ |
    ⟨d, rfl | rfl | rfl | rfl⟩ := hrow <;> exact ⟨_, rfl⟩

/-- Settles O10: a step with a rule in it resets instead when `rst` = 1, whatever the rule. -/
theorem rowsRunAsStepsYieldToReset : Obligations.RowsRunAsStepsYieldToReset := by
  intro s i hrst hrow
  obtain ⟨rule, hexec⟩ := exec_of_isStepRow hrow
  rw [hexec, stepWith_reset rule s hrst]
  rfl

/-- Settles O11: a reset step leaves the registers of `State.reset`, and as the outputs see only registers, those of any
such state are the outputs of `State.reset`, which are evaluated. -/
theorem resetLeavesTheSpecsValues : Obligations.ResetLeavesTheSpecsValues := by
  refine ⟨fun s t hrst hstep => ?registers, fun t hregs => ?outputs⟩
  case registers =>
    rw [step_of_reset s hrst] at hstep
    cases hstep
    exact ⟨rfl, rfl, rfl, rfl, rfl, rfl⟩
  case outputs =>
    obtain ⟨hframe, hacc, hstart, herr, hphase, hcount⟩ := hregs
    refine ⟨hframe, herr, hphase, hcount, hacc, hstart, fun u => ?_⟩
    rw [outputsHideTheHiddenRegisters u t State.reset ⟨hframe, herr, hphase⟩]
    cases u <;> decide

end Sys2Proof
end

section
/-! PROOFS. The commands of 44_commands.md: in IDLE each is the step of its code on `cmd`, while busy each is lost; and
the inputs a phase does not read (20_memory.md section 6) do not change its step. -/

namespace Sys2Proof

open Machine

/-- The command decode of IDLE reads `cmd` and `now` alone (R170 to R173). -/
theorem idleRule_present {f : Inputs → Inputs} {s : State} (hcmd : (f (sampleOf s)).cmd = (sampleOf s).cmd)
    (hnow : (f (sampleOf s)).now = (sampleOf s).now) : idleRule (present f s) = present f (idleRule s) := by
  have hread : startAttempt (present f s) = present f (startAttempt s) := by
    rw [startAttempt, sampleOf_present, hnow]
    rfl
  have hclear : clearErr (present f s) = present f (clearErr s) := rfl
  rw [idleRule, idleRule, sampleOf_present, hcmd, hread, hclear, apply_ite (present f), apply_ite (present f)]

/-- Unless a READ is accepted, the command decode of IDLE reads `cmd` alone (10_state.md section 5). -/
theorem idleRule_present_of_ne_read {f : Inputs → Inputs} {s : State}
    (hcmd : (f (sampleOf s)).cmd = (sampleOf s).cmd) (hread : (sampleOf s).cmd ≠ cmdRead) :
    idleRule (present f s) = present f (idleRule s) := by
  have hclear : clearErr (present f s) = present f (clearErr s) := rfl
  rw [idleRule, idleRule, sampleOf_present, hcmd, if_neg hread, if_neg hread, hclear, apply_ite (present f)]

/-- A change of the sample that the phase's rule does not see, and that keeps `rst` and `unit`, does not change the
step. -/
theorem step_present {f : Inputs → Inputs} {s : State} (hrst : (f (sampleOf s)).rst = (sampleOf s).rst)
    (hunit : (f (sampleOf s)).unit = (sampleOf s).unit) (hrule : phaseRule (present f s) = present f (phaseRule s)) :
    step (present f s) = step s := by
  rw [step_eq, step_eq, sampleOf_present, hrst, hrule, resetRegs_present, ← apply_ite (present f), finish_of_present,
    finish_present _ _ _ hunit]

/-- The rule of IDLE is the command decode. -/
theorem phaseRule_of_idle {s : State} (hidle : s.phase = .idle) : phaseRule s = idleRule s := by
  simp only [phaseRule, hidle]

/-- The rule of START_LOW. -/
theorem phaseRule_of_startLow {s : State} (hphase : s.phase = .startLow) : phaseRule s = startLowRule s := by
  simp only [phaseRule, hphase]

/-- The rule of VALIDATE. -/
theorem phaseRule_of_validate {s : State} (hphase : s.phase = .validate) : phaseRule s = validateRule s := by
  simp only [phaseRule, hphase]

/-- What the rule of a phase does not see, the phase does not see. -/
theorem phaseRule_present_of_rule {f : Inputs → Inputs} {s : State} {rule : State → State}
    (hrule : ∀ t : State, t.phase = s.phase → phaseRule t = rule t)
    (hpresent : rule (present f s) = present f (rule s)) :
    phaseRule (present f s) = present f (phaseRule s) := by
  rw [hrule (present f s) rfl, hrule s rfl, hpresent]

/-- Settles O52: the rules of IDLE, START_LOW and VALIDATE do not read `line_in`, and those of VALIDATE and of an IDLE
that accepts no READ do not read `now` either. -/
theorem unsampledInputsDoNotMatter : Obligations.UnsampledInputsDoNotMatter := by
  refine fun s => ⟨fun hphase l => step_present rfl rfl ?lineIn, fun hphase n => step_present rfl rfl ?now⟩
  case lineIn =>
    obtain hidle | hstart | hvalidate := hphase
    · exact phaseRule_present_of_rule (fun t h => phaseRule_of_idle (h.trans hidle)) (idleRule_present rfl rfl)
    · exact phaseRule_present_of_rule (fun t h => phaseRule_of_startLow (h.trans hstart))
        (startLowRule_present (f := fun i => { i with lineIn := l }) (fun _ => rfl) s)
    · exact phaseRule_present_of_rule (fun t h => phaseRule_of_validate (h.trans hvalidate))
        (validateRule_present _ s)
  case now =>
    obtain hvalidate | ⟨hidle, hread⟩ := hphase
    · exact phaseRule_present_of_rule (fun t h => phaseRule_of_validate (h.trans hvalidate))
        (validateRule_present _ s)
    · exact phaseRule_present_of_rule (fun t h => phaseRule_of_idle (h.trans hidle))
        (idleRule_present_of_ne_read rfl hread)

/-- The row of a command is CMD_IGNORED of its code: in IDLE the decode of that code has the row's effect, and while
busy both are the phase's own step (R170, R175). -/
theorem exec_decodeCmd (c : BitVec 2) (s : State) : exec (decodeCmd c.toNat) s = exec (.cmdIgnored c) s := by
  obtain rfl | rfl | rfl | rfl : c = 0b00#2 ∨ c = 0b01#2 ∨ c = 0b10#2 ∨ c = 0b11#2 := by
    revert c
    decide
  all_goals rfl

/-- A command presented to an idle block is the command decode on the sample as it was, if the presented code is the
sampled one. -/
theorem exec_cmdIgnored_sampled {s : State} (hidle : s.phase = .idle) :
    exec (.cmdIgnored (sampleOf s).cmd) s = .next (finish s (idleRule s)) := by
  have hexec : exec (.cmdIgnored (sampleOf s).cmd) s = command (sampleOf s).cmd idleRule s := rfl
  rw [hexec, command_idle _ _ s hidle, idleRule_present rfl rfl, finish_of_present, finish_present _ _ _ rfl]

/-- Settles O12: the step is CMD_IGNORED of the sampled code, by the command decode in IDLE and by the loss of every
command elsewhere, and CMD_IGNORED of a code is the row it decodes to. -/
theorem stepIsTheStepOfItsCommand : Obligations.StepIsTheStepOfItsCommand := by
  intro s hrst
  refine ⟨fun hidle => ⟨?step, ?stepIdle, fun c => (exec_decodeCmd c s).symm⟩, fun hbusy => ?busy⟩
  case step =>
    rw [exec_decodeCmd, exec_cmdIgnored_sampled hidle, step_of_running s hrst, phaseRule_of_idle hidle]
  case stepIdle =>
    have hexec : exec .stepIdle s = stepWith idleRule s := rfl
    rw [hexec, step_eq_stepWith hrst (phaseRule_of_idle hidle)]
  case busy =>
    have hexec : exec (.cmdIgnored (sampleOf s).cmd) s = command (sampleOf s).cmd idleRule s := rfl
    rw [hexec, command_busy_eq _ _ hbusy, step_of_running s hrst]

/-- Settles O13: without reset STEP_IDLE is the command decode, which chooses by the codes of R73. -/
theorem idleStepDecodesTheCommand : Obligations.IdleStepDecodesTheCommand :=
  fun s _ hrst => stepWith_next idleRule s hrst

/-- Settles O14: the effect of both rows in IDLE is none. -/
theorem nopAndReservedChangeNoRegister : Obligations.NopAndReservedChangeNoRegister := by
  intro s hidle
  have hnop : exec .nop s = command cmdNop (fun t => t) s := rfl
  have hreserved : exec .cmdReserved s = command cmdReserved (fun t => t) s := rfl
  rw [hnop, hreserved, command_idle _ _ s hidle, command_idle _ _ s hidle, finish_of_present, finish_of_present,
    finish_present _ _ _ rfl, finish_present _ _ _ rfl]
  exact ⟨rfl, rfl⟩

/-- Settles O15: the effect of READ in IDLE is `startAttempt`, and in START_LOW the block is busy and drives LOW. -/
theorem readStartsAnAttempt : Obligations.ReadStartsAnAttempt := by
  rintro s r hidle rfl
  refine ⟨?_, (busy_eq_true_iff _).mpr nofun, rfl, rfl⟩
  have hread : exec .read s = command cmdRead startAttempt s := rfl
  rw [hread, command_idle _ _ s hidle, finish_present _ _ _ rfl]
  rfl

/-- While busy each command row is the phase's own step, its command lost (R175). -/
theorem exec_command_of_busy {s : State} (hbusy : s.phase ≠ .idle) {c : BitVec 2} {i : Instr}
    (hrow : i = .nop ∨ i = .read ∨ i = .clrerr ∨ i = .cmdReserved ∨ i = .cmdIgnored c) :
    exec i s = .next (finish s (phaseRule s)) := by
  obtain rfl | rfl | rfl | rfl | rfl := hrow
  · exact command_busy_eq cmdNop (fun t => t) hbusy
  · exact command_busy_eq cmdRead startAttempt hbusy
  · exact command_busy_eq cmdClrerr clearErr hbusy
  · exact command_busy_eq cmdReserved (fun t => t) hbusy
  · exact command_busy_eq c idleRule hbusy

/-- Settles O17: no rule outside IDLE reads `cmd`, and a busy block's answer to a command is the phase's own step, which
uses up the sample. -/
theorem busyBlockIgnoresEveryCommand : Obligations.BusyBlockIgnoresEveryCommand := by
  intro s hbusy
  refine ⟨fun c => ?anyCommand, fun hrst c i hrow => ?ignored⟩
  case anyCommand =>
    have hrule := phaseRule_present (f := fun i => { i with cmd := c }) (fun _ => rfl) (fun _ => rfl) hbusy
    exact step_present rfl rfl hrule
  case ignored =>
    have hexec := exec_command_of_busy hbusy hrow
    exact ⟨by rw [hexec, ← step_eq_exec_phase hrst, step_of_running s hrst], _, hexec, rfl⟩

end Sys2Proof
end

section
/-! PROOFS. The accessors and unit rows of 43_reading_model.md: each as the one output it shows, the humidity and
temperature conversions as arithmetic on the raw frame. -/

namespace Sys2Proof

open Machine

/-- `HumRaw` as a word of its own arithmetic: the frame has no bit above 39 (R150). -/
theorem humRaw_eq (f : FrameWord) : humRaw f = BitVec.ofNat 16 (f.toNat / 2 ^ 24) := by
  apply BitVec.eq_of_toNat_eq
  rw [humRaw, BitVec.extractLsb'_toNat, Nat.shiftRight_eq_div_pow, BitVec.toNat_ofNat]

/-- The humidity field as a number (R150). -/
theorem toNat_humRaw (f : FrameWord) : (humRaw f).toNat = f.toNat / 2 ^ 24 := by
  have hframe := f.isLt
  rw [humRaw_eq, BitVec.toNat_ofNat, Nat.mod_eq_of_lt (by omega)]

/-- Settles O31: GETFRAME and HUMRAW are reads of one port each. -/
theorem frameAndHumidityFieldAreShown : Obligations.FrameAndHumidityFieldAreShown := by
  intro s
  rw [← humRaw_eq]
  exact ⟨readPort_next _ s, readPort_next _ s⟩

/-- `TempRaw` as a word of its own arithmetic (R151). -/
theorem tempRaw_eq (f : FrameWord) : tempRaw f = BitVec.ofNat 16 (f.toNat / 2 ^ 8 % 2 ^ 16) := by
  apply BitVec.eq_of_toNat_eq
  rw [tempRaw, BitVec.extractLsb'_toNat, Nat.shiftRight_eq_div_pow, BitVec.toNat_ofNat, Nat.mod_mod]

/-- `CkRaw` as a word of its own arithmetic (R151). -/
theorem ckRaw_eq (f : FrameWord) : ckRaw f = BitVec.ofNat 8 (f.toNat % 2 ^ 8) := by
  apply BitVec.eq_of_toNat_eq
  rw [ckRaw, BitVec.extractLsb'_toNat, Nat.shiftRight_zero, BitVec.toNat_ofNat, Nat.mod_mod]

/-- Settles O32: TEMPRAW_CKRAW is a read of the two field functions. -/
theorem temperatureAndChecksumFieldsAreShown : Obligations.TemperatureAndChecksumFieldsAreShown := by
  intro s
  rw [← tempRaw_eq, ← ckRaw_eq]
  exact readPort_next _ s

/-- Settles O34: `hum_out` holds the truncated field, which 16 bits can. -/
theorem gethumTruncates : Obligations.GethumTruncates := by
  intro s
  have hfield : (humRaw s.frame).toNat < 65536 := (humRaw s.frame).isLt
  have hvalue : (humOut s.frame).toNat = s.frame.toNat / 2 ^ 24 / 10 * 10 := by
    rw [humOut, hum, BitVec.toNat_ofNat, Nat.mod_eq_of_lt (by omega), toNat_humRaw]
  refine ⟨humOut s.frame, readPort_next _ s, rfl, hvalue, ?_⟩
  rw [toNat_humRaw] at hfield
  omega

/-- The whole degrees of the magnitude, as arithmetic on the raw frame (R155). -/
theorem cWhole_eq (f : FrameWord) : cWhole f = f.toNat / 2 ^ 8 % 2 ^ 15 / 10 := by
  rw [cWhole, toNat_tempMag]

/-- The 18 bits of `temp_out` hold every number from -131072 to 131071 (R157). -/
theorem toInt_ofInt_temp {x : Int} (hlo : -131072 ≤ x) (hhi : x ≤ 131071) : (BitVec.ofInt 18 x).toInt = x := by
  rw [BitVec.toInt_ofInt, Int.bmod_eq_of_le (by omega) (by omega)]

/-- A sign applied to a magnitude leaves it between the magnitude's negation and itself. -/
theorem signed_bounds {negative : Prop} [Decidable negative] {m bound : Nat} (hm : m ≤ bound) :
    -(bound : Int) ≤ (if negative then -(m : Int) else (m : Int)) ∧
      (if negative then -(m : Int) else (m : Int)) ≤ bound := by
  split <;> omega

/-- Settles O35: `temp_out` holds the truncated magnitude with the sign applied, at most 3276 whole degrees. -/
theorem gettempCelsiusTruncatesTheMagnitude : Obligations.GettempCelsiusTruncatesTheMagnitude := by
  intro s
  have hbounds := signed_bounds (negative := s.frame.toNat / 2 ^ 23 % 2 = 1) (bound := 32760)
    (show s.frame.toNat / 2 ^ 8 % 2 ^ 15 / 10 * 10 ≤ 32760 by omega)
  have hvalue : tempC s.frame = if s.frame.toNat / 2 ^ 23 % 2 = 1
      then -((s.frame.toNat / 2 ^ 8 % 2 ^ 15 / 10 * 10 : Nat) : Int)
      else ((s.frame.toNat / 2 ^ 8 % 2 ^ 15 / 10 * 10 : Nat) : Int) := by
    simp only [tempC, tempSign_eq_one_iff, cWhole_eq]
  rw [← hvalue] at hbounds
  have hshown : (tempOut .celsius s.frame).toInt = tempC s.frame := toInt_ofInt_temp (by omega) (by omega)
  exact ⟨tempOut .celsius s.frame, readPort_next _ s, rfl, hshown.trans hvalue, hshown ▸ hbounds.1, hshown ▸ hbounds.2⟩

/-- Settles O36: `temp_out` holds the finished Fahrenheit number with the sign applied, of at most 3276 whole degrees
Celsius. -/
theorem gettempFahrenheitNegatesTheFinishedNumber : Obligations.GettempFahrenheitNegatesTheFinishedNumber := by
  intro s
  have hbounds := signed_bounds (negative := s.frame.toNat / 2 ^ 23 % 2 = 1) (bound := 59288)
    (show s.frame.toNat / 2 ^ 8 % 2 ^ 15 / 10 * 18 + 320 ≤ 59288 by omega)
  have hvalue : tempF s.frame = if s.frame.toNat / 2 ^ 23 % 2 = 1
      then -((s.frame.toNat / 2 ^ 8 % 2 ^ 15 / 10 * 18 + 320 : Nat) : Int)
      else ((s.frame.toNat / 2 ^ 8 % 2 ^ 15 / 10 * 18 + 320 : Nat) : Int) := by
    simp only [tempF, tempSign_eq_one_iff, cWhole_eq]
  rw [← hvalue] at hbounds
  have hshown : (tempOut .fahrenheit s.frame).toInt = tempF s.frame := toInt_ofInt_temp (by omega) (by omega)
  exact ⟨tempOut .fahrenheit s.frame, readPort_next _ s, rfl, hshown.trans hvalue, hshown ▸ hbounds.1,
    hshown ▸ hbounds.2⟩

/-- Settles O45: both rows are reads that put a code of R76 on the shown `line_dir`. -/
theorem directionRowsShowTheirCode : Obligations.DirectionRowsShowTheirCode :=
  fun s => ⟨readPort_next _ s, readPort_next _ s, rfl, rfl⟩

/-- Settles O46: both rows present their code on `unit` and read `temp_out` with it. -/
theorem unitRowsSelectTheTemperature : Obligations.UnitRowsSelectTheTemperature := by
  intro s u i hrow
  obtain ⟨rfl, rfl⟩ | ⟨rfl, rfl⟩ := hrow
  · exact ⟨readPort_next _ _, _, readPort_next _ _, ⟨rfl, rfl, rfl, rfl, rfl, rfl⟩, rfl⟩
  · exact ⟨readPort_next _ _, _, readPort_next _ _, ⟨rfl, rfl, rfl, rfl, rfl, rfl⟩, rfl⟩

end Sys2Proof
end

section
/-! PROOFS. The timed phases whose rule is not one of the acknowledgment waits: the timer of 00_scope.md R8, START_LOW
of 40_handshake.md section 2, and the bit loop of 41_bit_decoder.md sections 1 to 5. -/

namespace Sys2Proof

open Machine

/-- In a counter of `w` bits the difference of the 32-bit words, cut to `w` bits, is the modular difference (R8). -/
theorem elapsed_eq {w : Nat} {now start : Micros} (hw : w ≤ 32) (hstart : start.toNat < 2 ^ w) :
    elapsed w now start = (now.toNat + 2 ^ w - start.toNat) % 2 ^ w := by
  obtain ⟨c, hc⟩ : 2 ^ w ∣ 2 ^ 32 := pow_dvd_pow 2 hw
  have hword : (now - start).toNat = (now.toNat + 2 ^ 32 - start.toNat) % 2 ^ 32 := by
    rw [BitVec.toNat_sub]
    congr 1
    have := start.isLt
    omega
  have hc0 : 0 < c := Nat.pos_of_ne_zero (by rintro rfl; simp at hc)
  have hsplit : now.toNat + 2 ^ 32 - start.toNat = now.toNat + 2 ^ w - start.toNat + 2 ^ w * (c - 1) := by
    rw [hc, Nat.mul_sub, Nat.mul_one]
    have : 2 ^ w ≤ 2 ^ w * c := Nat.le_mul_of_pos_right _ hc0
    omega
  rw [elapsed, hword, Nat.mod_mod_of_dvd _ ⟨c, hc⟩, hsplit, Nat.add_mul_mod_self_left]

/-- A true interval that the counter can tell is measured, whether or not `now` wrapped (R8, R11). -/
theorem elapsed_of_interval {w : Nat} {start : Micros} {d : Nat} (hw : w ≤ 32) (hstart : start.toNat < 2 ^ w)
    (hd : d < 2 ^ w) : elapsed w (BitVec.ofNat 32 ((start.toNat + d) % 2 ^ w)) start = d := by
  have hpow : 2 ^ w ≤ 2 ^ 32 := Nat.pow_le_pow_right (by omega) hw
  have hnow : (start.toNat + d) % 2 ^ w < 2 ^ w := Nat.mod_lt _ (Nat.two_pow_pos w)
  rw [elapsed_eq hw hstart, BitVec.toNat_ofNat, Nat.mod_eq_of_lt (Nat.lt_of_lt_of_le hnow hpow)]
  by_cases hwrap : start.toNat + d < 2 ^ w
  · rw [Nat.mod_eq_of_lt hwrap, show start.toNat + d + 2 ^ w - start.toNat = d + 2 ^ w by omega, Nat.add_mod_right,
      Nat.mod_eq_of_lt hd]
  · have hmod : (start.toNat + d) % 2 ^ w = start.toNat + d - 2 ^ w := by
      rw [Nat.mod_eq_sub_mod (by omega), Nat.mod_eq_of_lt (by omega)]
    rw [hmod, show start.toNat + d - 2 ^ w + 2 ^ w - start.toNat = d by omega, Nat.mod_eq_of_lt hd]

/-- Settles O18: the modular difference, the number the rules compare, and the interval it measures. -/
theorem elapsedIsTheModularDifference : Obligations.ElapsedIsTheModularDifference :=
  ⟨fun _ _ _ hw _ hstart => elapsed_eq hw hstart, elapsedOf_eq,
    fun _ _ _ hw hstart hd => elapsed_of_interval hw hstart hd⟩

/-- The operation of a phase's row, without reset, and the block's step in that phase (as `exec_wait`, for any rule). -/
theorem exec_phase {s : State} {rule : State → State} {i : Instr} (hexec : exec i s = stepWith rule s)
    (hphase : phaseRule s = rule s) (hrst : (sampleOf s).rst = false) :
    exec i s = .next (finish s (rule s)) ∧ step s = exec i s :=
  ⟨hexec.trans (stepWith_next rule s hrst), (step_eq_stepWith hrst hphase).trans hexec.symm⟩

/-- Settles O19: START_LOW compares the elapsed time with `T_START_LOW` and nothing else. -/
theorem startLowReleasesAt2000 : Obligations.StartLowReleasesAt2000 := by
  intro s e hphase hrst he
  obtain ⟨hexec, hstep⟩ := exec_phase (i := .stepStartLow) rfl (phaseRule_of_startLow hphase) hrst
  refine ⟨?_, hstep, (lineDir_eq_output_iff _).mpr hphase, (lineDrv_eq_low_iff _).mpr hphase,
    congrArg Params.tStartLow⟩
  rw [hexec, startLowRule, elapsedOf_eq, ← he]
  rfl

/-- Settles O23: BIT_LOW is a bounded wait for HIGH that leads to BIT_HIGH. -/
theorem bitLowWaitsForHigh : Obligations.BitLowWaitsForHigh := by
  intro s e hphase hrst he
  obtain ⟨hexec, hstep⟩ := exec_wait (i := .stepBitLow) (rule := bitLowRule) rfl
    (by simp only [phaseRule, hphase]) rfl hrst he
  exact ⟨hexec, hstep, congrArg Params.bitLowFailAt⟩

/-- The rule of BIT_HIGH. -/
theorem phaseRule_of_bitHigh {s : State} (hphase : s.phase = .bitHigh) : phaseRule s = bitHighRule s := by
  simp only [phaseRule, hphase]

/-- The falling edge as the chain of R122's windows. -/
theorem fallingEdge_eq (s : State) : fallingEdge s =
    if s.cfg.sym0Min ≤ elapsedOf s ∧ elapsedOf s ≤ s.cfg.sym0Max then endBit 0#1 s
    else if s.cfg.sym1Min ≤ elapsedOf s ∧ elapsedOf s ≤ s.cfg.sym1Max then endBit 1#1 s
    else raise .readLengthInvalid s := by
  rw [fallingEdge, classify]
  split_ifs <;> rfl

/-- A line still HIGH as a test of the bound, if there is one (R121, decision D5). -/
theorem stillHigh_eq (s : State) [Decidable (∃ b ∈ s.cfg.bitHighMax, b ≤ elapsedOf s)] : stillHigh s =
    if ∃ b ∈ s.cfg.bitHighMax, b ≤ elapsedOf s then raise .readLengthInvalid s else s := by
  by_cases hlate : ∃ b ∈ s.cfg.bitHighMax, b ≤ elapsedOf s
  · rw [if_pos hlate]
    obtain ⟨b, hbound, hle⟩ := hlate
    simp only [stillHigh, Option.mem_def.mp hbound, if_pos hle]
  · rw [if_neg hlate, stillHigh]
    cases hbound : s.cfg.bitHighMax with
    | none => rfl
    | some b => exact if_neg fun hle => hlate ⟨b, hbound, hle⟩

/-- Settles O24: BIT_HIGH examines the level, then the windows for a LOW sample and the bound for a HIGH one; the two
symbols are shifted in as the numbers 0 and 1. -/
theorem bitHighClassifiesAndShifts : Obligations.BitHighClassifiesAndShifts := by
  intro s e received hphase hrst he hreceived
  obtain ⟨hexec, hstep⟩ := exec_phase (i := .stepBitHigh) rfl (phaseRule_of_bitHigh hphase) hrst
  refine ⟨?_, hstep, fun hdoc => ⟨congrArg Params.sym0Min hdoc, congrArg Params.sym0Max hdoc,
    congrArg Params.sym1Min hdoc, congrArg Params.sym1Max hdoc, congrArg Params.frameWidth hdoc,
    congrArg Params.nBits hdoc⟩⟩
  have helapsed : elapsedOf s = e := (elapsedOf_eq s).trans he.symm
  have hzero : received 0 = endBit 0#1 s := hreceived 0
  have hone : received 1 = endBit 1#1 s := hreceived 1
  subst helapsed
  rw [hexec, hzero, hone, bitHighRule]
  cases hline : (sampleOf s).lineIn with
  | low => simp only [if_pos, fallingEdge_eq, raise]
  | high => simp only [stillHigh_eq, raise, reduceCtorEq, if_false]

/-- Above both windows no symbol stands (R122). -/
theorem classify_eq_none_of_above {p : Params} {d : Nat} (h0 : p.sym0Max < d) (h1 : p.sym1Max < d) :
    classify p d = none := by
  rw [classify, if_neg (by omega), if_neg (by omega)]

/-- Settles O25: the bound is tested on a HIGH sample, and a bound above both windows makes a LOW sample at it fault
as well. -/
theorem configuredHighBoundFaults : Obligations.ConfiguredHighBoundFaults := by
  intro s b hbound hphase hrst
  have hstep : step s = .next (finish s (bitHighRule s)) := by
    rw [step_of_running s hrst, phaseRule_of_bitHigh hphase]
  have hhigh : (sampleOf s).lineIn = .high → bitHighRule s =
      if b ≤ elapsedOf s then raise .readLengthInvalid s else s := by
    intro hline
    simp only [bitHighRule, hline, stillHigh, hbound]
  refine ⟨fun hline => ?high, fun hparams horder hlate => ?late⟩
  case high =>
    rw [hstep, hhigh hline]
    rfl
  case late =>
    obtain ⟨-, -, -, -, -, -, habove⟩ := hparams
    have hwindow := habove b hbound
    have hfault : bitHighRule s = raise .readLengthInvalid s := by
      cases hline : (sampleOf s).lineIn with
      | high => rw [hhigh hline, if_pos hlate]
      | low =>
        rw [bitHighRule, hline]
        simp only [fallingEdge, classify_eq_none_of_above (show s.cfg.sym0Max < elapsedOf s by omega)
          (show s.cfg.sym1Max < elapsedOf s by omega)]
    rw [hstep, hfault]
    rfl

/-- READ_LENGTH_INVALID with the windows written out: no symbol stands where neither window does (R122, R202). -/
theorem faultCondition_readLengthInvalid_iff (s : State) : FaultCondition s .readLengthInvalid ↔
    s.phase = .bitHigh ∧
      ((sampleOf s).lineIn = .low ∧ ¬(s.cfg.sym0Min ≤ elapsedOf s ∧ elapsedOf s ≤ s.cfg.sym0Max) ∧
          ¬(s.cfg.sym1Min ≤ elapsedOf s ∧ elapsedOf s ≤ s.cfg.sym1Max) ∨
        (sampleOf s).lineIn = .high ∧ ∃ b ∈ s.cfg.bitHighMax, b ≤ elapsedOf s) := by
  have hnone : classify s.cfg (elapsedOf s) = none ↔
      ¬(s.cfg.sym0Min ≤ elapsedOf s ∧ elapsedOf s ≤ s.cfg.sym0Max) ∧
        ¬(s.cfg.sym1Min ≤ elapsedOf s ∧ elapsedOf s ≤ s.cfg.sym1Max) := by
    rw [classify]
    split_ifs <;> simp [*]
  rw [FaultCondition, hnone]

/-- Where a fault has its condition, the phase's rule takes it (60_exceptions.md section 1). -/
theorem phaseRule_of_faultCondition {s : State} {k : ErrKind} (hcond : FaultCondition s k) :
    phaseRule s = raise k s := by
  cases k with
  | none => exact hcond.elim
  | pastReadIntervalLimit =>
    obtain ⟨hphase, hlate⟩ := hcond
    simp only [phaseRule, hphase, bitLowRule, waitRule_eq, if_pos hlate]
  | readLengthInvalid =>
    obtain ⟨hphase, ⟨hline, hnone⟩ | ⟨hline, b, hbound, hlate⟩⟩ := hcond
    · simp only [phaseRule, hphase, bitHighRule, hline, fallingEdge, hnone]
    · simp only [phaseRule, hphase, bitHighRule, hline, stillHigh, Option.mem_def.mp hbound, if_pos hlate]
  | checksumInvalid =>
    obtain ⟨hphase, hbad⟩ := hcond
    simp only [phaseRule, hphase, validateRule, hbad, Bool.false_eq_true, if_false]
  | unacknowledgedTransmission =>
    obtain ⟨hphase, hlate⟩ | ⟨hphase, hlate⟩ | ⟨hphase, hlate⟩ := hcond
    · simp only [phaseRule, hphase, ackWaitLowRule, waitRule_eq, if_pos hlate]
    · simp only [phaseRule, hphase, ackLowRule, waitRule_eq, if_pos hlate]
    · simp only [phaseRule, hphase, ackHighRule, waitRule_eq, if_pos hlate]

/-- Settles O42: the statement's conditions are `FaultCondition`; under it the phase's rule is `raise`, and of the
effects of a step only `raise`, under its condition, latches a kind. -/
theorem faultsAreRaisedExactlyWhere : Obligations.FaultsAreRaisedExactlyWhere := by
  intro s e cond hrst he hcond
  have helapsed : elapsedOf s = e := (elapsedOf_eq s).trans he.symm
  subst helapsed
  have hiff (k : ErrKind) : cond k ↔ FaultCondition s k := by
    rw [hcond k]
    cases k with
    | readLengthInvalid => exact (faultCondition_readLengthInvalid_iff s).symm
    | _ => exact Iff.rfl
  have hraised {k : ErrKind} (hk : cond k) : step s = stepWith (raise k) s :=
    step_eq_stepWith hrst (phaseRule_of_faultCondition ((hiff k).mp hk))
  refine ⟨hraised, hraised, hraised, hraised, fun t k hstep hlatched hfault => ?latched⟩
  case latched =>
    obtain ⟨hreset, -⟩ | ⟨-, u, heff, rfl⟩ := step_cases hstep
    · exact absurd (hrst.symm.trans hreset) Bool.false_ne_true
    · cases heff with
      | clearErr => exact absurd hlatched.symm hfault
      | raise k' hcond' =>
        obtain rfl : k' = k := hlatched
        exact .inr ((hiff k').mpr hcond')
      | _ => exact .inl hlatched

end Sys2Proof
end

section
/-! PROOFS. The codes as operations (30_encoding.md sections 5 to 9; log 7, log 8, log 9, log 15), and the placing of a
bare table word (log 11). -/

namespace Sys2Proof

open Machine

/-- Settles O38: each fault row is `raise` of its kind. -/
theorem faultRowsRaise : Obligations.FaultRowsRaise := by
  intro s k i hrst hrow
  refine ⟨?_, busy_eq_false_of_idle rfl, fun _ => rfl⟩
  obtain ⟨rfl, rfl⟩ | ⟨rfl, rfl⟩ | ⟨rfl, rfl⟩ | ⟨rfl, rfl⟩ := hrow <;> exact stepWith_next (raise _) s hrst

/-- Settles O39: the rule of ERR_NONE is `clearErr`, that of the reserved rows none. -/
theorem noneRowClearsAndReservedRowsWriteNothing : Obligations.NoneRowClearsAndReservedRowsWriteNothing :=
  fun s hrst => ⟨stepWith_next clearErr s hrst, fun _ _ => stepWith_next (fun t => t) s hrst⟩

/-- Settles O40: the symbol rows end a bit with their symbol, the other two raise. -/
theorem durationRowsShiftOrRaise : Obligations.DurationRowsShiftOrRaise :=
  fun s _ hrst => ⟨fun _ => stepWith_next (raise _) s hrst, fun _ _ => stepWith_next (endBit 0#1) s hrst,
    fun _ _ => stepWith_next (endBit 1#1) s hrst, fun _ => stepWith_next (raise _) s hrst⟩

/-! ### The falling edge and the duration rows -/

/-- With the documented parameters a duration is classified by the documented windows, whatever the optional bound. -/
theorem classify_of_asDocumented {p : Params} (hdoc : AsDocumented p) (d : Nat) :
    classify p d = classify Config.params d := by
  have hclass : classify { p with bitHighMax := none } d = classify Config.params d := congrArg (classify · d) hdoc
  exact hclass

/-- The row of a duration, taken as an operation, is a step with the rule of the falling edge at that duration. -/
theorem exec_decodeDur {s : State} {d : Micros} (hdoc : AsDocumented s.cfg) (hd : elapsedOf s = d.toNat)
    (hrst : (sampleOf s).rst = false) : exec (decodeDur d) s = .next (finish s (fallingEdge s)) := by
  have hclass : classify s.cfg (elapsedOf s) = _ := (classify_of_asDocumented hdoc _).trans (classify_eq _)
  rw [decodeDur_eq, fallingEdge, hclass, hd]
  split_ifs
  · exact stepWith_next (raise _) s hrst
  · exact stepWith_next (endBit 0#1) s hrst
  · exact stepWith_next (endBit 1#1) s hrst
  · exact stepWith_next (raise _) s hrst

/-- In BIT_HIGH a step without reset that samples LOW is the falling edge. -/
theorem step_of_fallingEdge {s : State} (hphase : s.phase = .bitHigh) (hrst : (sampleOf s).rst = false)
    (hline : (sampleOf s).lineIn = .low) : step s = .next (finish s (fallingEdge s)) := by
  rw [step_of_running s hrst, phaseRule_of_bitHigh hphase, bitHighRule, hline]

/-- The elapsed time fits a word. -/
theorem elapsedOf_lt (s : State) : elapsedOf s < 2 ^ 32 :=
  Nat.lt_of_le_of_lt (Nat.mod_le _ _) (BitVec.isLt _)

/-- Settles O41: the elapsed time is a code of a duration row, and that row has the rule of the falling edge. -/
theorem fallingEdgeRunsTheDurationRow : Obligations.FallingEdgeRunsTheDurationRow := by
  intro s hdoc hphase hrst hline
  have hd : elapsedOf s = (BitVec.ofNat 32 (elapsedOf s)).toNat := by
    rw [BitVec.toNat_ofNat, Nat.mod_eq_of_lt (elapsedOf_lt s)]
  refine ⟨decodeDur (BitVec.ofNat 32 (elapsedOf s)), decode_of_fits .dur _ (elapsedOf_lt s), wellFormed_decodeDur _, ?_⟩
  rw [step_of_fallingEdge hphase hrst hline, exec_decodeDur hdoc hd hrst]

/-! ### A whole frame -/

/-- Two frames are equal if they agree at bit `39 - i` for each of the forty iterations. -/
theorem frame_ext {a f : FrameWord} (h : ∀ i < 40, a.extractLsb' (39 - i) 1 = f.extractLsb' (39 - i) 1) : a = f := by
  apply BitVec.eq_of_getLsbD_eq
  intro j hj
  have hbit := congrArg (·.getLsbD 0) (h (39 - j) (by omega))
  rw [show 39 - (39 - j) = j by omega] at hbit
  simpa using hbit

/-- Forty shifts of the symbols of `f`, bit 39 first, leave `f`, whatever the accumulator held (R52, R123). -/
theorem foldl_shiftIn_eq (f a : FrameWord) :
    (List.range 40).foldl (fun x i => shiftIn 40 x (f.extractLsb' (39 - i) 1)) a = f := by
  obtain ⟨-, hplace, -⟩ := fortyShiftsPutTheFirstSymbolOnTop
  exact frame_ext fun i hi => hplace (fun i => f.extractLsb' (39 - i) 1) a i hi

/-- The reception of a whole frame leaves it in `acc`, if the frame has 40 bits and the loop fills it. -/
theorem receive_eq {p : Params} (hwidth : p.frameWidth = 40) (hbits : p.nBits = 40) (f a : FrameWord) :
    receive p f a = f := by
  rw [receive, hwidth, hbits]
  exact foldl_shiftIn_eq f a

/-- Settles O43: FRAME is a step that receives the whole frame. -/
theorem receivedFrameIsInTheAccumulator : Obligations.ReceivedFrameIsInTheAccumulator := by
  intro s f hparams hrst
  obtain ⟨hwidth, hbits, -⟩ := hparams
  have hexec : exec (.frame f) s = .next (finish s (receiveFrame f s)) := stepWith_next (receiveFrame f) s hrst
  rw [hexec, receiveFrame, receive_eq hwidth (hbits.trans hwidth), hbits.trans hwidth]

/-! ### The level rows -/

/-- The sample a level row presents: `rst` = 0, `cmd` = NOP and the level (30_encoding.md R80; log 9). -/
def levelSample (l : Level) (i : Inputs) : Inputs := { i with rst := false, cmd := cmdNop, lineIn := l }

/-- A level row leaves what the phase's rule makes of its sample. -/
theorem lineStep_of_phaseRule {l : Level} {s u : State}
    (hrule : phaseRule (present (levelSample l) s) = present (levelSample l) u) :
    lineStep l s = .next (finish s u) := by
  have hstep : lineStep l s =
      .next (finish (present (levelSample l) s) (phaseRule (present (levelSample l) s))) := rfl
  rw [hstep, hrule, finish_of_present, finish_present _ _ _ rfl]

/-- In a bounded wait before its deadline a level row moves on at the awaited level and stays at the other. -/
theorem waitRule_present_levelSample {l awaited : Level} {failAt : Nat} {kind : ErrKind} {s : State} (next : Phase)
    (hearly : elapsedOf s < failAt) :
    waitRule failAt awaited kind (enter next) (present (levelSample l) s) =
      present (levelSample l) (if l = awaited then enter next s else s) := by
  have hnow : ∀ i, (levelSample l i).now = i.now := fun _ => rfl
  rw [waitRule_eq, elapsedOf_present hnow, if_neg (by omega), enter_present hnow, apply_ite (present (levelSample l))]
  rfl

/-- Settles O44: a level row is the step of the sample it presents, which the waits take as their level and IDLE as a
NOP. -/
theorem levelRowsAreOneStepAtThatLevel : Obligations.LevelRowsAreOneStepAtThatLevel := by
  intro s l i hrow
  have hexec : exec i s = lineStep l s := by
    obtain ⟨rfl, rfl⟩ | ⟨rfl, rfl⟩ := hrow <;> rfl
  rw [hexec]
  refine ⟨⟨_, rfl, ?step, rfl⟩, fun hphase hearly => ?ackWaitLow, fun hphase hearly => ?ackLow, fun hidle => ?idle⟩
  case step => exact step_of_running (present (levelSample l) s) rfl
  case ackWaitLow =>
    apply lineStep_of_phaseRule
    rw [phaseRule, present_phase, hphase]
    exact waitRule_present_levelSample .ackLow hearly
  case ackLow =>
    apply lineStep_of_phaseRule
    rw [phaseRule, present_phase, hphase]
    exact waitRule_present_levelSample .ackHigh hearly
  case idle =>
    apply lineStep_of_phaseRule
    rw [phaseRule, present_phase, hidle]
    rfl

/-! ### Placed table words -/

/-- The sample in front of a placed word has no reset in it. -/
theorem quietSample_rst (s : State) : (quietSample s).rst = false := by
  rw [quietSample]
  split <;> rfl

/-- A `phase` value, placed, is the value the next step fetches by. -/
theorem step_placed_phase {s : State} {nbits w : Nat} (hplace : tablePlace nbits = some .phase) (hw : w < 8) :
    step (placeWord s nbits w) = exec (decodePhase w) (placeWord s nbits w) := by
  have hplaced : placeWord s nbits w =
      { s with phase := phaseOfCode (BitVec.ofNat 3 w), inputs := quietSample s :: s.inputs.tail } := by
    simp only [placeWord, hplace, if_pos hw]
  rw [step_eq_exec_phase (by rw [hplaced]; exact quietSample_rst s), hplaced, phaseCode_phaseOfCode,
    BitVec.toNat_ofNat, Nat.mod_eq_of_lt hw]

/-- A block in BIT_HIGH with the given accumulator and count, about to sample a falling edge `d` µs after `t_start`. -/
def placedEdge (s : State) (acc : FrameWord) (bitcnt : BitCount) (d : Micros) : State :=
  { s with
    phase := .bitHigh, acc := acc, bitcnt := bitcnt
    inputs := { quietSample s with lineIn := .low, now := s.tStart + d } :: s.inputs.tail }

/-- A duration, placed, is the distance of a falling edge; accumulator and count are the block's own. -/
theorem placeWord_dur {s : State} {nbits w : Nat} (hplace : tablePlace nbits = some .dur) (hw : w < 2 ^ 32) :
    placeWord s nbits w = placedEdge s s.acc s.bitcnt (BitVec.ofNat 32 w) := by
  simp only [placeWord, hplace, if_pos hw, placedEdge]

/-- A frame, placed, is a falling edge that ends the fortieth symbol, the other thirty-nine being in `acc`. -/
theorem placeWord_frame {s : State} {nbits w : Nat} (hplace : tablePlace nbits = some .frame) (hw : w < 2 ^ 40) :
    placeWord s nbits w = placedEdge s (BitVec.ofNat 40 w >>> 1) 39#6
      (BitVec.ofNat 32 (if w % 2 = 0 then s.cfg.sym0Min else s.cfg.sym1Min)) := by
  simp only [placeWord, hplace, if_pos hw, placedEdge]

section PlacedEdge

variable {s : State} {acc : FrameWord} {bitcnt : BitCount} {d : Micros}

/-- The next step of a placed edge is the rule of the falling edge. -/
theorem step_placedEdge : step (placedEdge s acc bitcnt d) =
    .next (finish (placedEdge s acc bitcnt d) (fallingEdge (placedEdge s acc bitcnt d))) :=
  step_of_fallingEdge rfl (quietSample_rst s) rfl

/-- A placed edge has its distance as the elapsed time, in a block with the documented 32-bit counter. -/
theorem elapsedOf_placedEdge (hdoc : AsDocumented s.cfg) : elapsedOf (placedEdge s acc bitcnt d) = d.toNat := by
  have hwidth : s.cfg.nowWidth = 32 := congrArg Params.nowWidth hdoc
  exact elapsedOf_of_now d.isLt (show d.toNat < 2 ^ s.cfg.nowWidth by rw [hwidth]; exact d.isLt)
    (by rw [BitVec.ofNat_toNat, BitVec.setWidth_eq]; rfl)

end PlacedEdge

/-- The lowest symbol shifted in after the thirty-nine above it completes the frame. -/
theorem shiftIn_ushiftRight (f : FrameWord) : shiftIn 40 (f >>> 1) (f.extractLsb' 0 1) = f := by
  have hf := f.isLt
  apply BitVec.eq_of_toNat_eq
  rw [shiftIn, BitVec.toNat_ofNat, Nat.mod_mod, BitVec.toNat_ushiftRight, BitVec.extractLsb'_toNat,
    Nat.shiftRight_eq_div_pow, Nat.shiftRight_zero]
  omega

/-- Ending the fortieth bit with the frame's lowest symbol is receiving the frame. -/
theorem endBit_eq_receiveFrame {u : State} {f : FrameWord} (hwidth : u.cfg.frameWidth = 40) (hbits : u.cfg.nBits = 40)
    (hacc : u.acc = f >>> 1) (hcount : u.bitcnt = 39#6) : endBit (f.extractLsb' 0 1) u = receiveFrame f u := by
  rw [endBit, receiveFrame, receive_eq hwidth hbits, hacc, hwidth, shiftIn_ushiftRight, hcount, hbits]
  rfl

/-- The documented windows begin with their symbol: 20 µs is a 0 and 50 µs a 1 (R77). -/
theorem fallingEdge_of_shortest {u : State} {f : FrameWord} (hdoc : AsDocumented u.cfg)
    (helapsed : elapsedOf u = if f.toNat % 2 = 0 then 20 else 50) : fallingEdge u = endBit (f.extractLsb' 0 1) u := by
  have hsymbol : (f.extractLsb' 0 1).toNat = f.toNat % 2 := by
    rw [BitVec.extractLsb'_toNat, Nat.shiftRight_zero, Nat.pow_one]
  have hclass : classify u.cfg (elapsedOf u) = some (f.extractLsb' 0 1) := by
    rw [classify_of_asDocumented hdoc, classify_eq, helapsed]
    obtain h | h := Nat.mod_two_eq_zero_or_one f.toNat
    · have hzero : f.extractLsb' 0 1 = 0#1 := BitVec.eq_of_toNat_eq (hsymbol.trans h)
      rw [hzero, if_pos h]
      rfl
    · have hone : f.extractLsb' 0 1 = 1#1 := BitVec.eq_of_toNat_eq (hsymbol.trans h)
      rw [hone, if_neg (show ¬f.toNat % 2 = 0 by omega)]
      rfl
  rw [fallingEdge, hclass]

/-- A duration, placed, is what the next step runs. -/
theorem step_placed_dur {s : State} {nbits w : Nat} (hdoc : AsDocumented s.cfg)
    (hplace : tablePlace nbits = some .dur) (hw : w < 2 ^ 32) :
    step (placeWord s nbits w) = exec (decodeDur (BitVec.ofNat 32 w)) (placeWord s nbits w) := by
  rw [placeWord_dur hplace hw, step_placedEdge,
    exec_decodeDur (s := placedEdge _ _ _ _) hdoc (elapsedOf_placedEdge hdoc) (quietSample_rst s)]

/-- A frame, placed, is what the next step runs: the fortieth bit ends with the frame received. -/
theorem step_placed_frame {s : State} {nbits w : Nat} (hdoc : AsDocumented s.cfg)
    (hplace : tablePlace nbits = some .frame) (hw : w < 2 ^ 40) :
    step (placeWord s nbits w) = exec (.frame (BitVec.ofNat 40 w)) (placeWord s nbits w) := by
  have hlow : s.cfg.sym0Min = 20 := congrArg Params.sym0Min hdoc
  have hhigh : s.cfg.sym1Min = 50 := congrArg Params.sym1Min hdoc
  have hreceived (f : FrameWord) (d : Micros) : endBit (f.extractLsb' 0 1) (placedEdge s (f >>> 1) 39#6 d) =
      receiveFrame f (placedEdge s (f >>> 1) 39#6 d) :=
    endBit_eq_receiveFrame (congrArg Params.frameWidth hdoc) (congrArg Params.nBits hdoc) rfl rfl
  rw [placeWord_frame hplace hw, step_placedEdge,
    fallingEdge_of_shortest (u := placedEdge _ _ _ _) (f := BitVec.ofNat 40 w) hdoc,
    hreceived]
  · exact (stepWith_next (receiveFrame _) (placedEdge _ _ _ _) (quietSample_rst s)).symm
  · rw [elapsedOf_placedEdge hdoc, hlow, hhigh, BitVec.toNat_ofNat, BitVec.toNat_ofNat, Nat.mod_eq_of_lt hw]
    split <;> rfl

/-- What a bare word decodes to is what its code decodes to on the place of its size (log 3). -/
theorem decode_of_decodeTableWord {nbits w : Nat} {i : Instr} {place : Place} (hplace : tablePlace nbits = some place)
    (hword : decodeTableWord nbits w = some i) : decode ⟨place, w⟩ = .instr i := by
  simp only [decodeTableWord, hplace] at hword
  cases hdec : decode ⟨place, w⟩ with
  | instr j => rw [hdec] at hword; exact congrArg Decoded.instr (Option.some.inj hword)
  | rejected e => rw [hdec] at hword; cases hword

/-- The places a bare word can be read on, by its size (log 3). -/
theorem tablePlace_cases (nbits : Nat) : tablePlace nbits = some .phase ∨ tablePlace nbits = some .dur ∨
    tablePlace nbits = some .frame ∨ tablePlace nbits = none := by
  unfold tablePlace
  split <;> simp

/-- Settles O5: a table word decodes on the place of its size, and on each of the three places it is placed where the
next step runs it. -/
theorem placedTableWordRunsNext : Obligations.PlacedTableWordRunsNext := by
  intro s nbits w i hdoc hword
  have hdec {place : Place} (hplace : tablePlace nbits = some place) :=
    fits_of_decode (decode_of_decodeTableWord hplace hword)
  rw [State.withFetchWord]
  obtain hplace | hplace | hplace | hplace := tablePlace_cases nbits
  · obtain ⟨hw, hi⟩ := hdec hplace
    cases hi
    exact step_placed_phase hplace hw
  · obtain ⟨hw, hi⟩ := hdec hplace
    cases hi
    exact step_placed_dur hdoc hplace hw
  · obtain ⟨hw, hi⟩ := hdec hplace
    cases hi
    exact step_placed_frame hdoc hplace hw
  · simp [decodeTableWord, hplace] at hword

end Sys2Proof
end

section
/-! PROOFS. The hidden registers of 10_state.md section 7: a phase reads a hidden register only where an earlier step of
the same attempt wrote it, so what they held before the attempt is never seen. -/

namespace Sys2Proof

open Machine

/-- The state with 0 in each hidden register that its phase cannot read before it is written again: the timer in IDLE
and VALIDATE, accumulator and count outside the bit loop and VALIDATE (R23, R24, R27, R104). -/
def live (s : State) : State :=
  { s with
    tStart := if s.phase = .idle ∨ s.phase = .validate then 0#32 else s.tStart
    acc := if s.phase = .bitLow ∨ s.phase = .bitHigh ∨ s.phase = .validate then s.acc else 0#40
    bitcnt := if s.phase = .bitLow ∨ s.phase = .bitHigh ∨ s.phase = .validate then s.bitcnt else 0#6 }

/-- The sample does not hang on the registers. -/
theorem sampleOf_live (s : State) : sampleOf (live s) = sampleOf s := rfl

/-- Forgetting twice is forgetting once. -/
theorem live_live (s : State) : live (live s) = live s := by
  simp only [live]
  split_ifs <;> rfl

/-- A fault ends the attempt, and with it every read of a hidden register. -/
theorem live_raise (k : ErrKind) (s : State) : live (raise k (live s)) = live (raise k s) := rfl

/-- In the timed phases the timer is kept. -/
theorem elapsedOf_live {s : State} (hphase : ¬(s.phase = .idle ∨ s.phase = .validate)) :
    elapsedOf (live s) = elapsedOf s := by
  have hstart : (live s).tStart = s.tStart := if_neg hphase
  rw [elapsedOf, hstart]
  rfl

/-- A bounded wait sees nothing that is forgotten, if its exit does not. -/
theorem live_waitRule {s : State} {failAt : Nat} {awaited : Level} {kind : ErrKind} {onEdge : State → State}
    (hphase : ¬(s.phase = .idle ∨ s.phase = .validate)) (hedge : live (onEdge (live s)) = live (onEdge s)) :
    live (waitRule failAt awaited kind onEdge (live s)) = live (waitRule failAt awaited kind onEdge s) := by
  rw [waitRule_eq, waitRule_eq, elapsedOf_live hphase, sampleOf_live]
  split_ifs
  · exact live_raise kind s
  · exact hedge
  · exact live_live s

/-- In the bit loop nothing is forgotten. -/
theorem live_of_bitLoop {s : State} (hphase : s.phase = .bitLow ∨ s.phase = .bitHigh) : live s = s := by
  have htimed : ¬(s.phase = .idle ∨ s.phase = .validate) := by obtain h | h := hphase <;> rw [h] <;> decide
  have hbits : s.phase = .bitLow ∨ s.phase = .bitHigh ∨ s.phase = .validate := hphase.imp_right .inl
  simp only [live, if_neg htimed, if_pos hbits]

/-- What the rule of the phase leaves to be read later does not hang on what is forgotten. -/
theorem live_phaseRule (s : State) : live (phaseRule (live s)) = live (phaseRule s) := by
  have hlive : (live s).phase = s.phase := rfl
  rw [phaseRule, phaseRule, hlive]
  cases hphase : s.phase with
  | idle =>
    have hread : live (startAttempt (live s)) = live (startAttempt s) := rfl
    have hclear : live (clearErr (live s)) = live (clearErr s) := by simp [live, clearErr, hphase]
    show live (idleRule (live s)) = live (idleRule s)
    rw [idleRule, idleRule, sampleOf_live]
    split_ifs
    · exact hread
    · exact hclear
    · exact live_live s
  | startLow =>
    have hrelease : live (enter .ackWaitLow (live s)) = live (enter .ackWaitLow s) := rfl
    have hcfg : (live s).cfg = s.cfg := rfl
    simp only [startLowRule, elapsedOf_live (s := s) (by simp [hphase]), hcfg]
    split_ifs
    · exact hrelease
    · exact live_live s
  | ackWaitLow => exact live_waitRule (by simp [hphase]) rfl
  | ackLow => exact live_waitRule (by simp [hphase]) rfl
  | ackHigh => exact live_waitRule (by simp [hphase]) rfl
  | bitLow => rw [live_of_bitLoop (.inl hphase)]
  | bitHigh => rw [live_of_bitLoop (.inr hphase)]
  | validate =>
    have hacc : (live s).acc = s.acc := by simp [live, hphase]
    simp only [validateRule, hacc]
    split_ifs
    · rfl
    · exact live_raise _ s

/-- The state a step leaves (`step_eq`). -/
def nextState (s : State) : State :=
  finish s (if (sampleOf s).rst = true then resetRegs s else phaseRule s)

/-- What a step leaves to be read later, and what it shows, does not hang on what is forgotten. -/
theorem live_nextState (s : State) : live (nextState (live s)) = live (nextState s) := by
  have hfinish (t : State) : finish (live s) t = finish s t := rfl
  have hlive (t : State) : live (finish s t) = finish s (live t) := rfl
  have hreset : live (resetRegs (live s)) = live (resetRegs s) := rfl
  rw [nextState, nextState, sampleOf_live, hfinish, hlive, hlive, apply_ite live, apply_ite live, hreset,
    live_phaseRule]

/-- Runs from states that agree but for what is forgotten go on agreeing. -/
theorem run_live (n : Nat) : ∀ s t : State, live s = live t → ∃ s' t' : State,
    Host.Core.run core n s = .next s' ∧ Host.Core.run core n t = .next t' ∧ live s' = live t' := by
  induction n with
  | zero => exact fun s t h => ⟨s, t, rfl, rfl, h⟩
  | succ n ih =>
    intro s t h
    obtain ⟨s', t', hs, ht, hlive⟩ := ih (nextState s) (nextState t) (by rw [← live_nextState, h, live_nextState])
    exact ⟨s', t', (run_of_step n s _ (step_eq s)).trans hs, (run_of_step n t _ (step_eq t)).trans ht, hlive⟩

/-- Settles O53: in IDLE all three hidden registers are forgotten, so the two blocks agree but for them, go on agreeing,
and `frame`, `err`, `phase` and what is shown are never forgotten. -/
theorem hiddenRegistersNeverInfluenceAnAttempt : Obligations.HiddenRegistersNeverInfluenceAnAttempt := by
  intro n s t hidle ⟨hframe, herr, hphase⟩ hcfg hinputs htick hout
  have hidle' : t.phase = .idle := hphase.symm.trans hidle
  have hlive : live s = live t := by
    simp [live, hidle, hidle', hframe, herr, hcfg, hinputs, htick, hout]
  obtain ⟨s', t', hs, ht, h⟩ := run_live n s t hlive
  have hvisible : SameVisible (live s') (live t') := by rw [h]; exact ⟨rfl, rfl, rfl⟩
  have hshown : (live s').out = (live t').out := by rw [h]
  exact ⟨s', t', hs, ht, hvisible, hshown⟩

/-- An idle block does nothing unless it samples READ or CLRERR (R171, R176). -/
theorem phaseRule_of_idle_of_quiet {s : State} (hidle : s.phase = .idle) (hread : (sampleOf s).cmd ≠ cmdRead)
    (hclear : (sampleOf s).cmd ≠ cmdClrerr) : phaseRule s = s := by
  rw [phaseRule_of_idle hidle, idleRule, if_neg hread, if_neg hclear]

/-- Settles O54: each quiet sample finds the block idle, where it does nothing, so the run stays (`run_stay`). -/
theorem idleBlockKeepsItsRegisters : Obligations.IdleBlockKeepsItsRegisters := by
  intro n s hidle hlen hquiet
  obtain ⟨t, hrun, hregs, -, hinputs⟩ := run_stay n s fun j hj u hregs _ hinputs => by
    obtain ⟨-, -, -, -, hphase, -⟩ := hregs
    obtain ⟨hrst, hread, hclear⟩ := hquiet _ (sampleOf_mem_take hj hlen hinputs)
    exact ⟨hrst, phaseRule_of_idle_of_quiet (hphase.symm.trans hidle) hread hclear⟩
  exact ⟨t, hrun, hregs, hinputs⟩

end Sys2Proof
end

section
/-! PROOFS. Timed waits under ideal sampling (00_scope.md R11, 70_reset_and_hazards.md R251): a block that waits is
followed step by step from where its timer was started (`run_waits`), up to the step that ends the wait. -/

namespace Sys2Proof

open Machine

/-- The next `k` samples are ideal, the first of them 1 µs after the timer was started. -/
structure Ideal (k : Nat) (s : State) : Prop where
  length : k ≤ s.inputs.length
  samples : IdealFrom (s.tStart + 1#32) (s.inputs.take k)

/-- Fewer of the samples are ideal, too. -/
theorem Ideal.mono {k m : Nat} {s : State} (hideal : Ideal k s) (hm : m ≤ k) : Ideal m s :=
  ⟨hm.trans hideal.length, IdealFrom_take hm hideal.samples⟩

/-- After `m` of the samples, the timer started anew with the last of them, the rest is ideal. -/
theorem Ideal.restart {k m : Nat} {s t : State} (hideal : Ideal k s) (hm : m ≤ k)
    (hinputs : t.inputs = s.inputs.drop m) (hstart : t.tStart = s.tStart + BitVec.ofNat 32 m) : Ideal (k - m) t := by
  refine ⟨?_, ?_⟩
  · rw [hinputs, List.length_drop]
    exact Nat.sub_le_sub_right hideal.length m
  · rw [hinputs, hstart, BitVec.add_assoc, BitVec.add_comm (BitVec.ofNat 32 m), ← BitVec.add_assoc]
    exact IdealFrom_drop hm hideal.samples

/-- None of the samples resets. -/
theorem Ideal.rst {k j : Nat} {s t : State} (hideal : Ideal k s) (hj : j < k) (hinputs : t.inputs = s.inputs.drop j) :
    (sampleOf t).rst = false := by
  obtain ⟨i, rest, hdrop, -⟩ := drop_eq_cons (l := s.inputs) (Nat.lt_of_lt_of_le hj hideal.length)
  obtain ⟨hrst, -⟩ := IdealFrom_get hideal.samples j hj i rest hdrop
  rwa [sampleOf_of_inputs (hinputs.trans hdrop)]

/-- `u` is the block after `j` ideal samples that changed no register of `s`, before the next sample: what it holds, and
what that sample and the elapsed time are. -/
structure Waited (s : State) (j : Nat) (u : State) : Prop where
  regs : SameRegisters s u
  cfg : u.cfg = s.cfg
  inputs : u.inputs = s.inputs.drop j
  rst : (sampleOf u).rst = false
  now : (sampleOf u).now = s.tStart + BitVec.ofNat 32 (j + 1)
  elapsed : elapsedOf u = j + 1

/-- A block that has kept its registers over `j` of `k` ideal samples has waited; its 32-bit counter tells the time. -/
theorem Ideal.waited {k j : Nat} {s u : State} (hideal : Ideal k s) (hwidth : s.cfg.nowWidth = 32) (hk : k < 2 ^ 32)
    (hj : j < k) (hregs : SameRegisters s u) (hcfg : u.cfg = s.cfg) (hinputs : u.inputs = s.inputs.drop j) :
    Waited s j u := by
  obtain ⟨helapsed, -, hnow⟩ :=
    step_in_ideal k j s u hk (hwidth ▸ hk) hj hideal.length hideal.samples hregs hcfg hinputs
  exact ⟨hregs, hcfg, hinputs, hideal.rst hj hinputs, hnow, helapsed⟩

/-- A run that has come to a state without a reset in its sample goes on with the rule of that state's phase. -/
theorem run_succ {n : Nat} {s u : State} (hrun : Host.Core.run core n s = .next u) (hrst : (sampleOf u).rst = false) :
    Host.Core.run core (n + 1) s = .next (finish u (phaseRule u)) :=
  (run_add n 1 s u hrun).trans (run_of_step 0 u _ (step_of_running u hrst))

/-- A block followed over ideal samples has either waited through all of them or come to the step that ends the wait. -/
theorem run_waits {k : Nat} {s : State} (hideal : Ideal k s) (hwidth : s.cfg.nowWidth = 32) (hk : k < 2 ^ 32) (n : Nat)
    (hn : n < k) :
    (∃ m < n, ∃ u, Waited s m u ∧ Host.Core.run core m s = .next u ∧ phaseRule u ≠ u) ∨
    ∃ u, Waited s n u ∧ Host.Core.run core n s = .next u := by
  induction n with
  | zero => exact .inr ⟨s, hideal.waited hwidth hk hn ⟨rfl, rfl, rfl, rfl, rfl, rfl⟩ rfl rfl, rfl⟩
  | succ n ih =>
    obtain ⟨m, hm, h⟩ | ⟨u, hwaited, hrun⟩ := ih (Nat.lt_of_succ_lt hn)
    · exact .inl ⟨m, Nat.lt_succ_of_lt hm, h⟩
    · by_cases hstay : phaseRule u = u
      · have hnext := run_succ hrun hwaited.rst
        rw [hstay] at hnext
        have hinputs : (finish u u).inputs = s.inputs.drop (n + 1) := by
          rw [finish_inputs, hwaited.inputs, List.tail_drop]
        exact .inr ⟨finish u u, hideal.waited hwidth hk hn hwaited.regs hwaited.cfg hinputs, hnext⟩
      · exact .inl ⟨n, Nat.lt_succ_self n, u, hwaited, hrun, hstay⟩

/-- A block that does nothing in each of the first `n` ideal samples waits through them. -/
theorem run_waits_of_stay {k n : Nat} {s : State} (hideal : Ideal k s) (hwidth : s.cfg.nowWidth = 32) (hk : k < 2 ^ 32)
    (hn : n < k) (hstay : ∀ j < n, ∀ u, Waited s j u → phaseRule u = u) :
    ∃ u, Waited s n u ∧ Host.Core.run core n s = .next u := by
  obtain ⟨m, hm, u, hwaited, -, hchange⟩ | h := run_waits hideal hwidth hk n hn
  · exact absurd (hstay m hm u hwaited) hchange
  · exact h

/-! ### Deadlines -/

/-- The elapsed time at which a phase is over, whatever the line does (R101 to R104, R120, R121); BIT_HIGH has one only
if the bound of decision D5 is configured. -/
def deadline (s : State) : Option Nat :=
  match s.phase with
  | .startLow => some s.cfg.tStartLow
  | .ackWaitLow => some s.cfg.ackP1FailAt
  | .ackLow => some s.cfg.ackP2FailAt
  | .ackHigh => some s.cfg.ackP3FailAt
  | .bitLow => some s.cfg.bitLowFailAt
  | .bitHigh => s.cfg.bitHighMax
  | .idle | .validate => none

/-- The deadline hangs on the phase and the parameters alone. -/
theorem Waited.deadline_eq {s u : State} {j : Nat} (hwaited : Waited s j u) : deadline u = deadline s := by
  obtain ⟨-, -, -, -, hphase, -⟩ := hwaited.regs
  rw [deadline, deadline, hwaited.cfg, hphase]

/-- At its deadline a phase ends. -/
theorem phaseRule_ne_of_deadline {u : State} {b : Nat} (hdeadline : deadline u = some b) (hlate : b ≤ elapsedOf u) :
    phaseRule u ≠ u := by
  intro hstay
  have hfault {k : ErrKind} (hcond : FaultCondition u k) : False := by
    obtain ⟨-, hbusy, -⟩ := hcond.ne
    have hidle : u.phase = .idle := congrArg State.phase (hstay.symm.trans (phaseRule_of_faultCondition hcond))
    exact hbusy hidle
  cases hphase : u.phase <;> simp only [deadline, hphase] at hdeadline
  case idle | validate => cases hdeadline
  case startLow =>
    cases hdeadline
    rw [phaseRule_of_startLow hphase, startLowRule, if_pos hlate] at hstay
    cases (congrArg State.phase hstay).trans hphase
  case ackWaitLow =>
    cases hdeadline
    exact hfault (k := .unacknowledgedTransmission) (.inl ⟨hphase, hlate⟩)
  case ackLow =>
    cases hdeadline
    exact hfault (k := .unacknowledgedTransmission) (.inr (.inl ⟨hphase, hlate⟩))
  case ackHigh =>
    cases hdeadline
    exact hfault (k := .unacknowledgedTransmission) (.inr (.inr ⟨hphase, hlate⟩))
  case bitLow =>
    cases hdeadline
    exact hfault (k := .pastReadIntervalLimit) ⟨hphase, hlate⟩
  case bitHigh =>
    obtain ⟨symbol, -, -, hbit⟩ | ⟨hline, hnone, -⟩ | ⟨_, hline, hbound, hlate', -⟩ | ⟨-, hearly, -⟩ :=
      bitHighRule_cases u
    · rw [phaseRule_of_bitHigh hphase, hbit] at hstay
      have hcount : u.bitcnt + 1#6 = u.bitcnt := congrArg State.bitcnt hstay
      bv_omega
    · exact hfault (k := .readLengthInvalid) ⟨hphase, .inl ⟨hline, hnone⟩⟩
    · exact hfault (k := .readLengthInvalid) ⟨hphase, .inr ⟨hline, _, hbound, hlate'⟩⟩
    · exact absurd (hearly b hdeadline) (Nat.not_lt.mpr hlate)

/-- Every effect of a step ends its phase, but waiting and an accepted CLRERR. -/
theorem PhaseEffect.phase_ne {s t : State} (heff : PhaseEffect s t) (hchange : t ≠ s) (hbusy : s.phase ≠ .idle) :
    t.phase ≠ s.phase := by
  have hne (p : Phase) {q : Phase} (hphase : s.phase = p) (hq : q ≠ p) : q ≠ s.phase := hphase ▸ hq
  cases heff with
  | stay => exact absurd rfl hchange
  | startAttempt hidle | clearErr hidle => exact absurd hidle hbusy
  | enter next hedge =>
    have hedges : ∀ e ∈ timedEdges, e.2 ≠ e.1 := by decide
    exact hedges _ hedge
  | enterDecoding hphase => exact hne .ackHigh hphase nofun
  | endBit b hphase =>
    refine hne .bitHigh hphase ?_
    rw [endBit_phase]
    split <;> exact nofun
  | promote hphase => exact hne .validate hphase nofun
  | raise k hcond => exact fun h => hcond.ne.2.1 h.symm

/-- A phase with a deadline, timed from its start, ends within it: after some `m` waits fewer than its deadline comes a
step with one of the effects of `PhaseEffect` that is no wait. -/
theorem run_of_deadline {s : State} {b : Nat} (hdeadline : deadline s = some b) (hwidth : s.cfg.nowWidth = 32)
    (hpos : 1 ≤ b) (hlt : b < 2 ^ 32) (hideal : Ideal b s) :
    ∃ m < b, ∃ u v, Waited s m u ∧ PhaseEffect u v ∧ v ≠ u ∧ Host.Core.run core (m + 1) s = .next (finish u v) := by
  obtain ⟨m, hm, u, hwaited, hrun, hchange⟩ | ⟨u, hwaited, hrun⟩ :=
    run_waits hideal hwidth hlt (b - 1) (Nat.sub_one_lt_of_lt hpos)
  · exact ⟨m, by omega, u, _, hwaited, phaseEffect_phaseRule u, hchange, run_succ hrun hwaited.rst⟩
  · have hlate : b ≤ elapsedOf u := by rw [hwaited.elapsed]; omega
    have hchange := phaseRule_ne_of_deadline (hwaited.deadline_eq.trans hdeadline) hlate
    exact ⟨b - 1, by omega, u, _, hwaited, phaseEffect_phaseRule u, hchange, run_succ hrun hwaited.rst⟩

/-- The documented deadlines (R6). -/
theorem deadline_of_asDocumented {s : State} {bound : Nat} (hdoc : AsDocumented s.cfg)
    (hbound : (s.phase = .ackWaitLow ∧ bound = 40) ∨ (s.phase = .ackLow ∧ bound = 100) ∨
      (s.phase = .ackHigh ∧ bound = 100) ∨ (s.phase = .bitLow ∧ bound = 66) ∨
      (s.phase = .bitHigh ∧ s.cfg.bitHighMax = some bound ∧ 1 ≤ bound ∧ bound < 2 ^ 32)) :
    deadline s = some bound ∧ 1 ≤ bound ∧ bound < 2 ^ 32 ∧ s.phase ≠ .idle ∧ s.phase ≠ .validate := by
  have hp1 : s.cfg.ackP1FailAt = 40 := congrArg Params.ackP1FailAt hdoc
  have hp2 : s.cfg.ackP2FailAt = 100 := congrArg Params.ackP2FailAt hdoc
  have hp3 : s.cfg.ackP3FailAt = 100 := congrArg Params.ackP3FailAt hdoc
  have hlow : s.cfg.bitLowFailAt = 66 := congrArg Params.bitLowFailAt hdoc
  obtain ⟨hphase, rfl⟩ | ⟨hphase, rfl⟩ | ⟨hphase, rfl⟩ | ⟨hphase, rfl⟩ | ⟨hphase, hb, hpos, hlt⟩ := hbound
  · simp [deadline, hphase, hp1]
  · simp [deadline, hphase, hp2]
  · simp [deadline, hphase, hp3]
  · simp [deadline, hphase, hlow]
  · exact ⟨by simp only [deadline, hphase, hb], hpos, hlt, by rw [hphase]; exact nofun, by rw [hphase]; exact nofun⟩

/-- Outside VALIDATE no effect of a step writes `frame` (R22). -/
theorem PhaseEffect.frame_eq {s t : State} (heff : PhaseEffect s t) (hphase : s.phase ≠ .validate) :
    t.frame = s.frame := by
  cases heff with
  | promote hvalidate => exact absurd hvalidate hphase
  | _ => rfl

/-- Settles O57: each of the five phases has its bound as a deadline, and the effect that ends it leaves the phase and
keeps `frame`. -/
theorem boundedWaitsEndInTime : Obligations.BoundedWaitsEndInTime := by
  intro s bound hdoc hbound hlen hsamples
  obtain ⟨hdeadline, hpos, hlt, hbusy, hframe⟩ := deadline_of_asDocumented hdoc hbound
  obtain ⟨m, hm, u, v, hwaited, heff, hchange, hrun⟩ :=
    run_of_deadline hdeadline (congrArg Params.nowWidth hdoc) hpos hlt ⟨hlen, hsamples⟩
  obtain ⟨hsame, -, -, -, hphase, -⟩ := hwaited.regs
  refine ⟨m + 1, by omega, by omega, finish u v, hrun, ?_, ?_⟩
  · rw [hphase] at hbusy ⊢
    exact heff.phase_ne hchange hbusy
  · rw [finish_frame, heff.frame_eq (hphase ▸ hframe), hsame]

/-! ### The handshake -/

/-- Settles O56: up to `e` = 1999 START_LOW waits (`run_waits_of_stay`), and at 2000 it releases the line. -/
theorem startLowLastsExactly2000Steps : Obligations.StartLowLastsExactly2000Steps := by
  intro s hdoc hphase hlen hsamples
  have hrelease : s.cfg.tStartLow = 2000 := congrArg Params.tStartLow hdoc
  have hstarts {j : Nat} {u : State} (hwaited : Waited s j u) : u.phase = .startLow ∧ u.cfg.tStartLow = 2000 := by
    obtain ⟨-, -, -, -, hsame, -⟩ := hwaited.regs
    exact ⟨hsame.symm.trans hphase, by rw [hwaited.cfg, hrelease]⟩
  have hruns {k : Nat} (hk : k < 2000) : ∃ u, Waited s k u ∧ Host.Core.run core k s = .next u := by
    refine run_waits_of_stay ⟨hlen, hsamples⟩ (congrArg Params.nowWidth hdoc) (by norm_num) hk fun j hj u hwaited => ?_
    obtain ⟨hstart, hcfg⟩ := hstarts hwaited
    rw [phaseRule_of_startLow hstart, startLowRule, hcfg, hwaited.elapsed, if_neg (by omega)]
  refine ⟨fun k hk => ?waiting, ?release⟩
  case waiting =>
    obtain ⟨u, hwaited, hrun⟩ := hruns hk
    obtain ⟨hstart, -⟩ := hstarts hwaited
    exact ⟨u, hrun, hwaited.regs, (lineDir_eq_output_iff _).mpr hstart, (lineDrv_eq_low_iff _).mpr hstart⟩
  case release =>
    obtain ⟨u, hwaited, hrun⟩ := hruns (k := 1999) (by norm_num)
    obtain ⟨hstart, hcfg⟩ := hstarts hwaited
    have hrule : phaseRule u = enter .ackWaitLow u := by
      rw [phaseRule_of_startLow hstart, startLowRule, hcfg, hwaited.elapsed, if_pos (by omega)]
    obtain ⟨hframe, hacc, -, herr, -, hcount⟩ := hwaited.regs
    exact ⟨_, run_succ hrun hwaited.rst, by rw [hrule]; rfl, by rw [hrule]; exact hwaited.now,
      by rw [hrule]; exact hframe.symm, by rw [hrule]; exact hacc.symm, by rw [hrule]; exact herr.symm,
      by rw [hrule]; exact hcount.symm⟩

/-- How a handshake that began with the given `frame` and `err` ends: in decoding with a cleared accumulator, or in IDLE
with its fault latched (R100, R106). -/
def HandshakeEnd (s t : State) : Prop :=
  t.frame = s.frame ∧ ((t.phase = .bitLow ∧ t.acc = 0#40 ∧ t.bitcnt = 0#6 ∧ t.err = s.err) ∨
    (t.phase = .idle ∧ t.err = .unacknowledgedTransmission))

/-- Within `k` ideal samples the handshake ends. -/
def HandshakeEndsWithin (k : Nat) (s : State) : Prop :=
  ∃ n ≤ k, ∃ t, Host.Core.run core n s = .next t ∧ HandshakeEnd s t

/-- The phases of the handshake have no fault but UNACKNOWLEDGED_TRANSMISSION (R204). -/
theorem FaultCondition.eq_unacknowledged {s : State} {k : ErrKind} (hcond : FaultCondition s k)
    (hphase : s.phase = .startLow ∨ s.phase = .ackWaitLow ∨ s.phase = .ackLow ∨ s.phase = .ackHigh) :
    k = .unacknowledgedTransmission := by
  cases k with
  | none => exact hcond.elim
  | unacknowledgedTransmission => rfl
  | pastReadIntervalLimit | readLengthInvalid | checksumInvalid =>
    obtain ⟨h, -⟩ := hcond
    simp [h] at hphase

/-- One phase of the handshake: it ends within its deadline `b`, in the handshake's end or in the next phase, from where
the handshake ends within `rest`. -/
theorem handshakeEndsWithin_of_phase {s : State} {b rest : Nat} (hwidth : s.cfg.nowWidth = 32)
    (hphase : s.phase = .startLow ∨ s.phase = .ackWaitLow ∨ s.phase = .ackLow ∨ s.phase = .ackHigh)
    (hdeadline : deadline s = some b) (hpos : 1 ≤ b) (hlt : b < 2 ^ 32) (hideal : Ideal (b + rest) s)
    (hnext : ∀ t : State, (s.phase, t.phase) ∈ timedEdges → t.cfg = s.cfg → Ideal rest t → HandshakeEndsWithin rest t) :
    HandshakeEndsWithin (b + rest) s := by
  obtain ⟨m, hm, u, v, hwaited, heff, hchange, hrun⟩ :=
    run_of_deadline hdeadline hwidth hpos hlt (hideal.mono (Nat.le_add_right b rest))
  obtain ⟨hframe, -, -, herr, hsame, -⟩ := hwaited.regs
  rw [hsame] at hphase
  cases heff with
  | stay => exact absurd rfl hchange
  | startAttempt h | clearErr h | endBit _ h | promote h => simp [h] at hphase
  | enter next hedge =>
    have hinputs : (finish u (enter next u)).inputs = s.inputs.drop (m + 1) := by
      rw [finish_inputs, hwaited.inputs, List.tail_drop]
    have hrestart : Ideal (b + rest - (m + 1)) (finish u (enter next u)) :=
      hideal.restart (by omega) hinputs hwaited.now
    obtain ⟨n, hn, t, hrest, hkept, hend⟩ := hnext (finish u (enter next u)) (hsame ▸ hedge) hwaited.cfg
      (hrestart.mono (by omega))
    refine ⟨m + 1 + n, by omega, t, (run_add (m + 1) n s _ hrun).trans hrest, hkept.trans hframe.symm, ?_⟩
    rw [herr]
    exact hend
  | enterDecoding => exact ⟨m + 1, by omega, _, hrun, hframe.symm, .inl ⟨rfl, rfl, rfl, herr.symm⟩⟩
  | raise k hcond =>
    exact ⟨m + 1, by omega, _, hrun, hframe.symm, .inr ⟨rfl, hcond.eq_unacknowledged hphase⟩⟩

/-- From ACK_HIGH the handshake ends within its 100 µs (R104). -/
theorem handshakeEndsWithin_of_ackHigh {s : State} (hdoc : AsDocumented s.cfg) (hphase : s.phase = .ackHigh)
    (hideal : Ideal 100 s) : HandshakeEndsWithin 100 s := by
  have hfail : s.cfg.ackP3FailAt = 100 := congrArg Params.ackP3FailAt hdoc
  refine handshakeEndsWithin_of_phase (b := 100) (rest := 0) (congrArg Params.nowWidth hdoc) (by simp [hphase])
    (by simp [deadline, hphase, hfail]) (by norm_num) (by norm_num) hideal fun t hedge _ _ => ?_
  simp [timedEdges, hphase] at hedge

/-- From ACK_LOW it takes at most 100 µs more (R103). -/
theorem handshakeEndsWithin_of_ackLow {s : State} (hdoc : AsDocumented s.cfg) (hphase : s.phase = .ackLow)
    (hideal : Ideal 200 s) : HandshakeEndsWithin 200 s := by
  have hfail : s.cfg.ackP2FailAt = 100 := congrArg Params.ackP2FailAt hdoc
  refine handshakeEndsWithin_of_phase (b := 100) (rest := 100) (congrArg Params.nowWidth hdoc) (by simp [hphase])
    (by simp [deadline, hphase, hfail]) (by norm_num) (by norm_num) hideal fun t hedge hcfg ht => ?_
  exact handshakeEndsWithin_of_ackHigh (hcfg ▸ hdoc) (by simpa [timedEdges, hphase] using hedge) ht

/-- From ACK_WAIT_LOW it takes at most 40 µs more (R102). -/
theorem handshakeEndsWithin_of_ackWaitLow {s : State} (hdoc : AsDocumented s.cfg) (hphase : s.phase = .ackWaitLow)
    (hideal : Ideal 240 s) : HandshakeEndsWithin 240 s := by
  have hfail : s.cfg.ackP1FailAt = 40 := congrArg Params.ackP1FailAt hdoc
  refine handshakeEndsWithin_of_phase (b := 40) (rest := 200) (congrArg Params.nowWidth hdoc) (by simp [hphase])
    (by simp [deadline, hphase, hfail]) (by norm_num) (by norm_num) hideal fun t hedge hcfg ht => ?_
  exact handshakeEndsWithin_of_ackLow (hcfg ▸ hdoc) (by simpa [timedEdges, hphase] using hedge) ht

/-- Settles O58: START_LOW takes its 2000 steps, and the three acknowledgment waits at most 40 + 100 + 100 more. -/
theorem handshakeEndsWithin2240Steps : Obligations.HandshakeEndsWithin2240Steps := by
  intro s hdoc hphase hlen hsamples
  have hrelease : s.cfg.tStartLow = 2000 := congrArg Params.tStartLow hdoc
  have hideal : Ideal (2000 + 240) s := ⟨hlen, hsamples⟩
  refine handshakeEndsWithin_of_phase (congrArg Params.nowWidth hdoc) (by simp [hphase])
    (by simp [deadline, hphase, hrelease]) (by norm_num) (by norm_num) hideal fun t hedge hcfg ht => ?_
  exact handshakeEndsWithin_of_ackWaitLow (hcfg ▸ hdoc) (by simpa [timedEdges, hphase] using hedge) ht

end Sys2Proof
end

section
/-! PROOFS. One bit under ideal sampling (41_bit_decoder.md sections 1 to 5): the low phase up to the rising edge, the
high phase up to the falling edge, and the symbol its length stands for. -/

namespace Sys2Proof

open Machine

/-- The `j`-th of the samples to come carries the given level. -/
def LineAt (s : State) (j : Nat) (l : Level) : Prop := s.inputs[j]?.map Inputs.lineIn = some l

/-- That level is sampled after `j` steps. -/
theorem LineAt.sampled {s u : State} {j : Nat} {l : Level} (hline : LineAt s j l)
    (hinputs : u.inputs = s.inputs.drop j) : (sampleOf u).lineIn = l := by
  obtain ⟨i, hi, hlevel⟩ := Option.map_eq_some_iff.mp hline
  obtain ⟨hlt, hget⟩ := List.getElem?_eq_some_iff.mp hi
  rw [sampleOf_of_inputs (hinputs.trans (List.drop_eq_getElem_cons hlt)), hget, hlevel]

/-- After `m` steps the samples to come are the later ones. -/
theorem LineAt.later {s t : State} {m j : Nat} {l : Level} (hline : LineAt s (m + j) l)
    (hinputs : t.inputs = s.inputs.drop m) : LineAt t j l := by
  rw [LineAt, hinputs, List.getElem?_drop]
  exact hline

/-- The samples carry the levels that the line is said to show. -/
theorem lineAt_of_levels {s : State} {n j : Nat} {levels : List Level} {l : Level}
    (hlevels : (s.inputs.take n).map Inputs.lineIn = levels) (hj : j < n) (hl : levels[j]? = some l) :
    LineAt s j l := by
  rw [← hlevels, List.getElem?_map, List.getElem?_take_of_lt hj] at hl
  exact hl

/-- What the line shows in one bit: `low` µs LOW counted from the edge before, `high` µs HIGH, and the falling edge. -/
def bitLevels (low high : Nat) : List Level :=
  List.replicate (low - 1) .low ++ List.replicate high .high ++ [.low]

/-- A bit has a sample for each of its microseconds. -/
theorem length_bitLevels {low : Nat} (high : Nat) (hlow : 1 ≤ low) : (bitLevels low high).length = low + high := by
  simp only [bitLevels, List.length_append, List.length_replicate, List.length_singleton]
  omega

/-- The low phase of a bit. -/
theorem getElem?_bitLevels_low {low high j : Nat} (hj : j < low - 1) : (bitLevels low high)[j]? = some .low := by
  rw [bitLevels, List.append_assoc, List.getElem?_append_left (by rwa [List.length_replicate]),
    List.getElem?_replicate_of_lt hj]

/-- The high phase of a bit. -/
theorem getElem?_bitLevels_high {low high j : Nat} (hj : j < high) :
    (bitLevels low high)[low - 1 + j]? = some .high := by
  rw [bitLevels, List.getElem?_append_left (by simp only [List.length_append, List.length_replicate]; omega),
    List.getElem?_append_right (by rw [List.length_replicate]; omega), List.length_replicate, Nat.add_sub_cancel_left,
    List.getElem?_replicate_of_lt hj]

/-- The falling edge of a bit. -/
theorem getElem?_bitLevels_last (low high : Nat) : (bitLevels low high)[low - 1 + high]? = some .low := by
  rw [bitLevels, List.getElem?_append_right (by simp)]
  simp

/-- BIT_LOW before its deadline: the rising edge leads to BIT_HIGH, and a LOW sample changes nothing (R120). -/
theorem phaseRule_of_bitLow_of_early {u : State} (hphase : u.phase = .bitLow)
    (hearly : elapsedOf u < u.cfg.bitLowFailAt) :
    phaseRule u = if (sampleOf u).lineIn = .high then enter .bitHigh u else u := by
  simp only [phaseRule, hphase, bitLowRule, waitRule_eq, if_neg (Nat.not_le.mpr hearly)]

/-- The low phase of a bit: BIT_LOW waits for `low` - 1 samples and enters BIT_HIGH at the rising edge. -/
theorem run_bitLow {s : State} {low : Nat} (hdoc : AsDocumented s.cfg) (hphase : s.phase = .bitLow) (hpos : 1 ≤ low)
    (hmax : low ≤ 65) (hideal : Ideal low s) (hlows : ∀ j < low - 1, LineAt s j .low)
    (hedge : LineAt s (low - 1) .high) :
    ∃ u, Waited s (low - 1) u ∧ Host.Core.run core low s = .next (finish u (enter .bitHigh u)) := by
  have hfail : s.cfg.bitLowFailAt = 66 := congrArg Params.bitLowFailAt hdoc
  have hrule {j : Nat} {u : State} (hwaited : Waited s j u) (hj : j < low) :
      phaseRule u = if (sampleOf u).lineIn = .high then enter .bitHigh u else u := by
    obtain ⟨-, -, -, -, hsame, -⟩ := hwaited.regs
    refine phaseRule_of_bitLow_of_early (hsame.symm.trans hphase) ?_
    rw [hwaited.elapsed, hwaited.cfg, hfail]
    omega
  obtain ⟨u, hwaited, hrun⟩ := run_waits_of_stay (n := low - 1) hideal (congrArg Params.nowWidth hdoc) (by omega)
    (by omega) fun j hj u hwaited => by
      rw [hrule hwaited (by omega), (hlows j hj).sampled hwaited.inputs, if_neg nofun]
  have hend := run_succ hrun hwaited.rst
  rw [hrule hwaited (by omega), hedge.sampled hwaited.inputs, if_pos rfl, Nat.sub_add_cancel hpos] at hend
  exact ⟨u, hwaited, hend⟩

/-- BIT_HIGH before its bound, if it has one, waits while the line is HIGH (R121). -/
theorem phaseRule_of_bitHigh_of_early {u : State} (hphase : u.phase = .bitHigh) (hline : (sampleOf u).lineIn = .high)
    (hearly : ∀ b ∈ u.cfg.bitHighMax, elapsedOf u < b) : phaseRule u = u := by
  have hrule : phaseRule u = stillHigh u := by rw [phaseRule_of_bitHigh hphase, bitHighRule, hline]
  rw [hrule, stillHigh]
  cases hbound : u.cfg.bitHighMax with
  | none => rfl
  | some b => exact if_neg (Nat.not_le.mpr (hearly b hbound))

/-- The high phase of a bit: BIT_HIGH waits for `high` - 1 samples and judges the falling edge at `e` = `high`. -/
theorem run_bitHigh {s : State} {high : Nat} (hwidth : s.cfg.nowWidth = 32) (hphase : s.phase = .bitHigh)
    (hpos : 1 ≤ high) (hmax : high < 2 ^ 32) (hbound : ∀ b ∈ s.cfg.bitHighMax, high ≤ b) (hideal : Ideal high s)
    (hhighs : ∀ j < high - 1, LineAt s j .high) (hedge : LineAt s (high - 1) .low) :
    ∃ w, Waited s (high - 1) w ∧ Host.Core.run core high s = .next (finish w (fallingEdge w)) := by
  obtain ⟨w, hwaited, hrun⟩ := run_waits_of_stay (n := high - 1) hideal hwidth hmax (by omega) fun j hj u hwaited => by
    obtain ⟨-, -, -, -, hsame, -⟩ := hwaited.regs
    refine phaseRule_of_bitHigh_of_early (hsame.symm.trans hphase) ((hhighs j hj).sampled hwaited.inputs) ?_
    rw [hwaited.elapsed, hwaited.cfg]
    intro b hb
    have := hbound b hb
    omega
  obtain ⟨-, -, -, -, hsame, -⟩ := hwaited.regs
  have hend := run_succ hrun hwaited.rst
  rw [phaseRule_of_bitHigh (hsame.symm.trans hphase), bitHighRule, hedge.sampled hwaited.inputs,
    Nat.sub_add_cancel hpos] at hend
  exact ⟨w, hwaited, hend⟩

/-- The falling edge after a high phase that stands for a symbol (R122). -/
theorem fallingEdge_of_symbol {w : State} {high : Nat} (hdoc : AsDocumented w.cfg) (helapsed : elapsedOf w = high)
    (hlo : 20 ≤ high) (hhi : high ≤ 100) : fallingEdge w = endBit (if high ≤ 49 then 0#1 else 1#1) w := by
  have hclass : classify w.cfg (elapsedOf w) = some (if high ≤ 49 then 0#1 else 1#1) := by
    rw [classify_of_asDocumented hdoc, classify_eq, helapsed, if_neg (by omega)]
    split_ifs <;> rfl
  rw [fallingEdge, hclass]

/-- The falling edge after a high phase that stands for none (R122). -/
theorem fallingEdge_of_no_symbol {w : State} {high : Nat} (hdoc : AsDocumented w.cfg) (helapsed : elapsedOf w = high)
    (hout : high < 20 ∨ 100 < high) : fallingEdge w = raise .readLengthInvalid w := by
  have hclass : classify w.cfg (elapsedOf w) = none := by
    rw [classify_of_asDocumented hdoc, classify_eq, helapsed]
    obtain hshort | hlong := hout
    · rw [if_pos (by omega)]
    · rw [if_neg (by omega), if_neg (by omega), if_neg (by omega)]
  rw [fallingEdge, hclass]

/-- `w` is the block `s` before it judges the falling edge that ends a bit of the given durations: what that sample and
the elapsed time are, and which registers of `s` it still holds. -/
structure AtFallingEdge (s : State) (low high : Nat) (w : State) : Prop where
  run : Host.Core.run core (low + high) s = .next (finish w (fallingEdge w))
  cfg : w.cfg = s.cfg
  elapsed : elapsedOf w = high
  now : (sampleOf w).now = s.tStart + BitVec.ofNat 32 (low + high)
  inputs : w.inputs.tail = s.inputs.drop (low + high)
  frame : w.frame = s.frame
  acc : w.acc = s.acc
  err : w.err = s.err
  bitcnt : w.bitcnt = s.bitcnt

/-- One bit: the low phase and then the high phase, up to the falling edge. -/
theorem run_bit {s : State} {low high : Nat} (hdoc : AsDocumented s.cfg) (hbound : ∀ b ∈ s.cfg.bitHighMax, high ≤ b)
    (hphase : s.phase = .bitLow) (hlow : 1 ≤ low) (hlow' : low ≤ 65) (hhigh : 1 ≤ high) (hhigh' : high < 2 ^ 32)
    (hlevels : (s.inputs.take (low + high)).map Inputs.lineIn = bitLevels low high) (hideal : Ideal (low + high) s) :
    ∃ w, AtFallingEdge s low high w := by
  obtain ⟨u, hu, hrise⟩ := run_bitLow hdoc hphase hlow hlow' (hideal.mono (Nat.le_add_right _ _))
    (fun j hj => lineAt_of_levels hlevels (by omega) (getElem?_bitLevels_low hj))
    (lineAt_of_levels hlevels (by omega) (getElem?_bitLevels_high (j := 0) (by omega)))
  have hinputs : (finish u (enter .bitHigh u)).inputs = s.inputs.drop low := by
    rw [finish_inputs, hu.inputs, List.tail_drop, Nat.sub_add_cancel hlow]
  have hstart : (finish u (enter .bitHigh u)).tStart = s.tStart + BitVec.ofNat 32 low := by
    rw [finish_tStart, enter_tStart, hu.now, Nat.sub_add_cancel hlow]
  have hrest := hideal.restart (Nat.le_add_right low high) hinputs hstart
  rw [Nat.add_sub_cancel_left] at hrest
  have hlater {j : Nat} {l : Level} (hj : j < high) (hl : (bitLevels low high)[low + j]? = some l) :
      LineAt (finish u (enter .bitHigh u)) j l :=
    (lineAt_of_levels hlevels (by omega) hl).later hinputs
  have hcfg : (finish u (enter .bitHigh u)).cfg = s.cfg := hu.cfg
  have hwidth : s.cfg.nowWidth = 32 := congrArg Params.nowWidth hdoc
  obtain ⟨w, hw, hfall⟩ := run_bitHigh (s := finish u (enter .bitHigh u)) (by rw [hcfg, hwidth]) rfl hhigh hhigh'
    (by rw [hcfg]; exact hbound) hrest
    (fun j hj => hlater (by omega)
      ((congrArg _ (by omega : low + j = low - 1 + (j + 1))).trans (getElem?_bitLevels_high (by omega))))
    (hlater (by omega)
      ((congrArg _ (by omega : low + (high - 1) = low - 1 + high)).trans (getElem?_bitLevels_last low high)))
  obtain ⟨huframe, huacc, -, huerr, -, hucount⟩ := hu.regs
  obtain ⟨hwframe, hwacc, -, hwerr, -, hwcount⟩ := hw.regs
  refine ⟨w, (run_add low high s _ hrise).trans hfall, hw.cfg.trans hcfg, by rw [hw.elapsed]; omega, ?now, ?inputs,
    (huframe.trans hwframe).symm, (huacc.trans hwacc).symm, (huerr.trans hwerr).symm, (hucount.trans hwcount).symm⟩
  case now =>
    rw [hw.now, hstart, Nat.sub_add_cancel hhigh, BitVec.add_assoc, BitVec.ofNat_add]
  case inputs =>
    rw [hw.inputs, hinputs, List.tail_drop, List.drop_drop, Nat.sub_add_cancel hhigh]

/-- Settles O59: the bit runs up to its falling edge (`run_bit`), where the documented windows judge its high time. -/
theorem bitOfGivenDurationsIsReceived : Obligations.BitOfGivenDurationsIsReceived := by
  intro s low high hdoc hbound hphase hlow hlow' hhigh hhigh' hlevels hsamples
  have hlen : low + high ≤ s.inputs.length := by
    have hlength := congrArg List.length hlevels
    rw [List.length_map, List.length_take] at hlength
    have := hlength.trans (length_bitLevels high hlow)
    omega
  obtain ⟨w, hedge⟩ :=
    run_bit hdoc hbound hphase hlow hlow' hhigh hhigh' hlevels ⟨hlen, hsamples⟩
  have hdoc' : AsDocumented w.cfg := hedge.cfg ▸ hdoc
  have hwidth : w.cfg.frameWidth = 40 := congrArg Params.frameWidth hdoc'
  have hbits : w.cfg.nBits = 40 := congrArg Params.nBits hdoc'
  have hkept : (fallingEdge w).frame = s.frame := by
    obtain h | h : (20 ≤ high ∧ high ≤ 100) ∨ (high < 20 ∨ 100 < high) := by omega
    · rw [fallingEdge_of_symbol hdoc' hedge.elapsed h.1 h.2, endBit_frame, hedge.frame]
    · rw [fallingEdge_of_no_symbol hdoc' hedge.elapsed h, raise_frame, hedge.frame]
  refine ⟨_, hedge.run, hkept, hedge.inputs, fun hlo hhi => ?symbol, fun hout => ?fault⟩
  case symbol =>
    rw [fallingEdge_of_symbol hdoc' hedge.elapsed hlo hhi]
    refine ⟨?acc, congrArg (· + 1#6) hedge.bitcnt, hedge.now, hedge.err, ?phase⟩
    case acc =>
      rw [finish_acc, endBit_acc, shiftIn, hwidth, hedge.acc]
      split_ifs <;> exact BitVec.eq_of_toNat_eq (by simp)
    case phase =>
      have hlast : s.bitcnt.toNat + 1 = 40 ↔ s.bitcnt = 39#6 := by bv_omega
      rw [finish_phase, endBit_phase, hbits, hedge.bitcnt]
      simp only [hlast]
  case fault =>
    rw [fallingEdge_of_no_symbol hdoc' hedge.elapsed hout]
    exact ⟨rfl, rfl, hedge.acc, hedge.bitcnt⟩

end Sys2Proof
end

section
/-! PROOFS. A whole frame on the wire under ideal sampling: forty bits, each received as in
BitOfGivenDurationsIsReceived, and the judgement of 42_frame_validator.md in the step after them. -/

namespace Sys2Proof

open Machine

/-- Of lists put one after another, the `i`-th stands behind the lengths of those before it. -/
theorem take_drop_flatMap_range {α : Type} {g : Nat → List α} {len : Nat → Nat} {n i : Nat}
    (hlen : ∀ j < n, (g j).length = len j) (hi : i < n) :
    (((List.range n).flatMap g).drop ((List.range i).map len).sum).take (len i) = g i := by
  obtain ⟨r, rfl⟩ : ∃ r, n = i + (r + 1) := ⟨n - i - 1, by omega⟩
  have hbefore : ((List.range i).flatMap g).length = ((List.range i).map len).sum := by
    rw [List.length_flatMap]
    congr 1
    exact List.map_congr_left fun j hj => hlen j (by have := List.mem_range.mp hj; omega)
  rw [List.range_add, List.flatMap_append, List.drop_left' hbefore, List.range_succ_eq_map, List.map_cons,
    Nat.add_zero, List.flatMap_cons, List.take_left' (hlen i hi)]

/-- The symbol at one bit of a frame, as a number. -/
theorem toNat_symbol (f : FrameWord) (d : Nat) : (f.extractLsb' d 1).toNat = if f.getLsbD d = true then 1 else 0 := by
  rw [BitVec.extractLsb'_toNat, Nat.shiftRight_eq_div_pow, Nat.pow_one, BitVec.getLsbD, ← Nat.toNat_testBit]
  cases f.toNat.testBit d <;> rfl

/-- The accumulator after the first `i` symbols of `f`, most significant first, were shifted into `a` (R52, R123). -/
def shifted (f a : FrameWord) (i : Nat) : FrameWord :=
  (List.range i).foldl (fun x j => shiftIn 40 x (f.extractLsb' (39 - j) 1)) a

/-- The next symbol is shifted in as a number. -/
theorem shifted_succ (f a : FrameWord) (i : Nat) :
    shifted f a (i + 1) = BitVec.ofNat 40 (2 * (shifted f a i).toNat + if f.getLsbD (39 - i) = true then 1 else 0) := by
  rw [shifted, List.range_succ, List.foldl_append, List.foldl_cons, List.foldl_nil, ← shifted, shiftIn, toNat_symbol]
  apply BitVec.eq_of_toNat_eq
  simp

/-- The number of samples the first `i` bits take. -/
def bitStart (low high : Nat → Nat) (i : Nat) : Nat := ((List.range i).map fun j => low j + high j).sum

/-- Each bit begins where the one before it ends. -/
theorem bitStart_succ (low high : Nat → Nat) (i : Nat) :
    bitStart low high (i + 1) = bitStart low high i + (low i + high i) := by
  simp [bitStart, List.range_succ]

/-- Later bits begin later. -/
theorem bitStart_mono (low high : Nat → Nat) : Monotone (bitStart low high) :=
  monotone_nat_of_le_succ fun i => by rw [bitStart_succ]; exact Nat.le_add_right _ _

/-- `t` is the block after the first `i` bits of `f`, sent with the given durations to a block `s`. -/
structure ReceivedBits (s : State) (f : FrameWord) (low high : Nat → Nat) (i : Nat) (t : State) : Prop where
  run : Host.Core.run core (bitStart low high i) s = .next t
  frame : t.frame = s.frame
  err : t.err = s.err
  acc : t.acc = shifted f s.acc i
  bitcnt : t.bitcnt = BitVec.ofNat 6 i
  tStart : t.tStart = s.tStart + BitVec.ofNat 32 (bitStart low high i)
  phase : t.phase = if i = 40 then .validate else .bitLow
  inputs : t.inputs = s.inputs.drop (bitStart low high i)

/-- The line sends the forty bits of `f` to `s`, ideally sampled, bit `39 - i` the `i`-th, each for durations that stand
for it (R77), and the block has the documented parameters and no bound that a bit could reach. -/
structure SentFrame (s : State) (f : FrameWord) (low high : Nat → Nat) : Prop where
  doc : AsDocumented s.cfg
  bound : ∀ b ∈ s.cfg.bitHighMax, 100 < b
  durations : ∀ i < 40, 1 ≤ low i ∧ low i ≤ 65 ∧
    if f.getLsbD (39 - i) = true then 50 ≤ high i ∧ high i ≤ 100 else 20 ≤ high i ∧ high i ≤ 49
  levels : (s.inputs.take (bitStart low high 40)).map Inputs.lineIn =
    (List.range 40).flatMap fun i => bitLevels (low i) (high i)
  ideal : Ideal (bitStart low high 40) s

section SentFrame

variable {s t : State} {f : FrameWord} {low high : Nat → Nat} {i : Nat}

/-- The high time of a bit is in the windows, and on the side of 49 that its symbol says. -/
theorem SentFrame.high_window (hsent : SentFrame s f low high) (hi : i < 40) :
    20 ≤ high i ∧ high i ≤ 100 ∧ (if high i ≤ 49 then 0 else 1) = if f.getLsbD (39 - i) = true then 1 else 0 := by
  obtain ⟨-, -, hhigh⟩ := hsent.durations i hi
  by_cases hsymbol : f.getLsbD (39 - i) = true
  · rw [if_pos hsymbol] at hhigh ⊢
    exact ⟨by omega, hhigh.2, if_neg (by omega)⟩
  · rw [if_neg hsymbol] at hhigh ⊢
    exact ⟨hhigh.1, by omega, if_pos hhigh.2⟩

/-- A bit ends before the frame does. -/
theorem bitStart_add_le (hi : i < 40) : bitStart low high i + (low i + high i) ≤ bitStart low high 40 := by
  rw [← bitStart_succ]
  exact bitStart_mono low high hi

/-- The samples of a bit show its levels. -/
theorem SentFrame.levels_of_bit (hsent : SentFrame s f low high) (hi : i < 40)
    (hinputs : t.inputs = s.inputs.drop (bitStart low high i)) :
    (t.inputs.take (low i + high i)).map Inputs.lineIn = bitLevels (low i) (high i) := by
  have hend : low i + high i ≤ bitStart low high 40 - bitStart low high i :=
    Nat.le_sub_of_add_le' (bitStart_add_le hi)
  have hlen (j : Nat) (hj : j < 40) : (bitLevels (low j) (high j)).length = low j + high j := by
    obtain ⟨hlow, -⟩ := hsent.durations j hj
    exact length_bitLevels (high j) hlow
  have hbit := take_drop_flatMap_range (g := fun j => bitLevels (low j) (high j)) hlen hi
  rw [← hsent.levels, ← List.map_drop, ← List.map_take, ← bitStart, List.drop_take, List.take_take,
    Nat.min_eq_left hend] at hbit
  rw [hinputs, hbit]

/-- One more bit is received. -/
theorem ReceivedBits.succ (hreceived : ReceivedBits s f low high i t) (hsent : SentFrame s f low high) (hi : i < 40) :
    ∃ u, ReceivedBits s f low high (i + 1) u := by
  obtain ⟨hlow, hlow', -⟩ := hsent.durations i hi
  obtain ⟨hhigh, hhigh', hsymbol⟩ := hsent.high_window hi
  have hcfg : t.cfg = s.cfg := run_cfg _ s t hreceived.run
  have hend : bitStart low high i + (low i + high i) ≤ bitStart low high 40 := bitStart_add_le hi
  have hsamples : Ideal (low i + high i) t :=
    (hsent.ideal.restart (by omega) hreceived.inputs hreceived.tStart).mono (by omega)
  obtain ⟨u, hrun, hframe, hinputs, hbit, -⟩ := bitOfGivenDurationsIsReceived t (low i) (high i) (hcfg ▸ hsent.doc)
    (fun b hb => hhigh'.trans (Nat.le_of_lt (hsent.bound b (hcfg ▸ hb)))) (by rw [hreceived.phase, if_neg (by omega)])
    hlow hlow' (by omega) (by omega) (hsent.levels_of_bit hi hreceived.inputs) hsamples.samples
  obtain ⟨hacc, hcount, hstart, herr, hphase⟩ := hbit hhigh hhigh'
  refine ⟨u, ?run, hframe.trans hreceived.frame, herr.trans hreceived.err, ?acc, ?bitcnt, ?tStart, ?phase, ?inputs⟩
  case run => rw [bitStart_succ, run_add _ _ s t hreceived.run, hrun]
  case acc => rw [hacc, hreceived.acc, hsymbol, shifted_succ]
  case bitcnt => rw [hcount, hreceived.bitcnt, BitVec.ofNat_add]
  case tStart => rw [hstart, hreceived.tStart, bitStart_succ, BitVec.add_assoc, ← BitVec.ofNat_add]
  case phase =>
    have hlast : BitVec.ofNat 6 i = 39#6 ↔ i + 1 = 40 := by
      rw [← BitVec.toNat_inj, BitVec.toNat_ofNat, BitVec.toNat_ofNat]
      omega
    rw [hphase, hreceived.bitcnt]
    simp only [hlast]
  case inputs => rw [hinputs, hreceived.inputs, List.drop_drop, bitStart_succ]

/-- All forty bits are received, one after another. -/
theorem SentFrame.receivedBits (hsent : SentFrame s f low high) (hphase : s.phase = .bitLow) (hcount : s.bitcnt = 0#6) :
    ∀ i ≤ 40, ∃ t, ReceivedBits s f low high i t := by
  intro i hi
  induction i with
  | zero => exact ⟨s, rfl, rfl, rfl, rfl, hcount, (BitVec.add_zero _).symm, hphase, rfl⟩
  | succ i ih =>
    obtain ⟨t, ht⟩ := ih (Nat.le_of_succ_le hi)
    exact ht.succ hsent hi

end SentFrame

/-- Settles O60: after the forty bits `acc` holds `f` and the block is in VALIDATE, whose step promotes or rejects
it. -/
theorem wireFrameIsReceivedAndValidated : Obligations.WireFrameIsReceivedAndValidated := by
  intro s f low high n hdoc hparams hphase hcount hdurations hn hlen hlevels hsamples
  rw [← bitStart] at hn
  have hideal : Ideal (n + 1) s := ⟨hlen, hsamples⟩
  have hbound : ∀ b ∈ s.cfg.bitHighMax, 100 < b := by
    obtain ⟨-, -, -, -, -, -, habove⟩ := hparams
    have hmax : s.cfg.sym1Max = 100 := congrArg Params.sym1Max hdoc
    rwa [hmax] at habove
  have hsent : SentFrame s f low high :=
    ⟨hdoc, hbound, hdurations, by rw [← hn]; exact hlevels, by rw [← hn]; exact hideal.mono (Nat.le_succ n)⟩
  obtain ⟨t, ht⟩ := hsent.receivedBits hphase hcount 40 le_rfl
  have hbits := ht.run
  have hinputs := ht.inputs
  rw [← hn] at hbits hinputs
  have hacc : t.acc = f := ht.acc.trans (foldl_shiftIn_eq f s.acc)
  have hrun := run_succ hbits (hideal.rst (Nat.lt_succ_self n) hinputs)
  rw [phaseRule_of_validate ht.phase] at hrun
  refine ⟨_, hrun, ?_⟩
  obtain ⟨hok, h⟩ | ⟨hbad, h⟩ := validateRule_cases t
  · rw [hacc] at hok
    rw [h]
    exact ⟨rfl, hacc, fun _ => ⟨hacc, ht.err⟩, fun hbad => absurd (hbad.symm.trans hok) Bool.false_ne_true⟩
  · rw [hacc] at hbad
    rw [h]
    exact ⟨rfl, hacc, fun hok => absurd (hbad.symm.trans hok) Bool.false_ne_true, fun _ => ⟨ht.frame, rfl⟩⟩

end Sys2Proof
end
